-- ==== Sys2Proof/Word.lean ====
section
/-! DEFINITION. The 32-bit word of the director: an address names a word, and frames, management words
and payloads are words (00_scope, Conventions). -/
namespace Sys2Proof

/-- A word is 32 bits; an address is a 32-bit word address. -/
abbrev Word := BitVec 32

end Sys2Proof
end

