-- ==== Sys2Proof/Config.lean ====
section
/-! DEFINITION. What the part fixes: identity words, capacities and defaults, each a constant of the spec.
The spec leaves no result of any operation undefined, so there is no free value here; the strap levels at
`State.reset` are the one value the spec takes from the board (log 3). -/
namespace Sys2Proof.Config

/-- Identity region 0000h: part code 0464h (11.4). -/
def partCode : Word := 0x0464#32
/-- Identity region 0001h: revision 01h (11.4). -/
def revision : Word := 0x01#32
/-- Places of the egress queue, reserved ones included (R136). -/
def egressPlaces : Nat := 40
/-- Depth of each hold queue (R73). -/
def holdPlaces : Nat := 4
/-- Depth of MU's input queue (R149). -/
def muPlaces : Nat := 4
/-- Depth of the event queue (R169). -/
def eventPlaces : Nat := 8
/-- HELLO interval on every link, in ticks (R98, R131). -/
def helloInterval : Nat := 1000
/-- First word of the management window (R14, R152). -/
def windowBase : Nat := 0xFFFF0000
/-- Event mask after a reset that restores defaults: TIMEOUT, PORT-STATE, CONFLICT, LINK-UP (R167, 11.4). -/
def defaultMask : BitVec 8 := 0x99#8
/-- Timebase divider after a reset that restores defaults (R175). -/
def defaultDivider : BitVec 8 := 50#8

end Sys2Proof.Config
end

