-- ==== Sys2Proof/Syntax.lean ====
section
/-! DEFINITION. The commands of the director: one constructor of `Instr` per row of opcode_table.json.
A received frame is an operand as raw words; a received symbol is an operand as its argument and check bits,
its type being the row's (log 4). -/
namespace Sys2Proof

/-- A downstream port, DP0–DP3. -/
abbrev PortNo := Fin 4
/-- A transaction entry, whose index is the downstream tag (R71). -/
abbrev EntryNo := Fin 32
/-- The argument bits 20:8 of a link symbol (11.2). -/
abbrev SymArg := BitVec 13
/-- The check bits 7:0 of a link symbol (11.2). -/
abbrev SymCheck := BitVec 8

/-- The nine strap pins as they stand when a reset samples them (00, Pins). -/
structure Straps where
  segId : BitVec 4
  rcvSrc : BitVec 4
  rcvEn : Bool
  deriving DecidableEq, Repr

/-- What takes a link down: a DOWN symbol, loss of symbol lock, or a HELLO while the link is up (R106, R134). -/
inductive LossCause where
  | down (arg : SymArg) (check : SymCheck)
  | symbolLock
  | hello (arg : SymArg) (check : SymCheck)
  deriving DecidableEq, Repr

/-- The symbols that end a wake (R105). -/
inductive WakeSymbol where
  | ready
  | wake
  deriving DecidableEq, Repr

/-- The commands, in the order of opcode_table.json. -/
inductive Instr where
  | por (straps : Straps)
  | pinReset (straps : Straps)
  | tick
  | upstreamHelloTimerExpiry
  | upstreamHello (arg : SymArg) (check : SymCheck)
  | upstreamLinkLoss (cause : LossCause)
  | reqFrameReceived (frame : List Word)
  | upstreamRspNtfFrame (frame : List Word)
  | upstreamGrant (arg : SymArg) (check : SymCheck)
  | upstreamPark (arg : SymArg) (check : SymCheck)
  | upstreamWake (arg : SymArg) (check : SymCheck)
  | egressSend
  | notificationClaim (p : PortNo)
  | eventClaim
  | decode
  | downstreamFrame (p : PortNo) (frame : List Word)
  | downstreamGrantReq (p : PortNo) (arg : SymArg) (check : SymCheck)
  | portSend (p : PortNo)
  | entryTimeout (n : EntryNo)
  | quarantineEnd (n : EntryNo)
  | portHelloTimerExpiry (p : PortNo)
  | portHelloReceived (p : PortNo) (arg : SymArg) (check : SymCheck)
  | linkTimerExpiry (p : PortNo)
  | downstreamLinkLoss (p : PortNo) (cause : LossCause)
  | idleTimerExpiry (p : PortNo)
  | readyOrWakeReceived (p : PortNo) (sym : WakeSymbol) (arg : SymArg) (check : SymCheck)
  | wakeTimerExpiry (p : PortNo)
  | managementWrite
  | stagingWrite
  | portConfigurationWrite
  | eventOverflowClear
  | commit
  | stagingCopy
  | lock
  | clearAll
  | portEnable
  | portDisable
  | portRestart
  | captureClear
  | counterClear
  | unknownCommand
  | segmentReset
  | trafficPhase
  | capturePhase
  | segmentResetCompletion
  | managementRead
  deriving DecidableEq, Repr

end Sys2Proof
end

