-- ==== Sys2Proof/WellFormed.lean ====
section
/-! DEFINITION. Which commands are commands of the table: the two upstream frame rows are told apart by the
class field of the received frame (R118, 11.2). All other operands are bounded by their types. -/
namespace Sys2Proof

/-- The class field, bits 31:30 of the header word; a frame without a header word has none (11.2). -/
def frameClassBits (frame : List Word) : Option (BitVec 2) :=
  frame.head?.map (fun h => h.extractLsb' 30 2)

/-- REQ_FRAME_RECEIVED carries a frame of class REQ, or one too short to name a class;
UPSTREAM_RSP_NTF_FRAME carries one of class RSP, NTF or of no defined class (R118). -/
def WellFormed : Instr → Bool
  | .reqFrameReceived frame => frameClassBits frame = some 0#2 || frame.isEmpty
  | .upstreamRspNtfFrame frame => frameClassBits frame ≠ some 0#2 && !frame.isEmpty
  | .por _ | .pinReset _ | .tick | .upstreamHelloTimerExpiry | .upstreamHello _ _ | .upstreamLinkLoss _
  | .upstreamGrant _ _ | .upstreamPark _ _ | .upstreamWake _ _ | .egressSend | .notificationClaim _
  | .eventClaim | .decode | .downstreamFrame _ _ | .downstreamGrantReq _ _ _ | .portSend _
  | .entryTimeout _ | .quarantineEnd _ | .portHelloTimerExpiry _ | .portHelloReceived _ _ _
  | .linkTimerExpiry _ | .downstreamLinkLoss _ _ | .idleTimerExpiry _ | .readyOrWakeReceived _ _ _ _
  | .wakeTimerExpiry _ | .managementWrite | .stagingWrite | .portConfigurationWrite | .eventOverflowClear
  | .commit | .stagingCopy | .lock | .clearAll | .portEnable | .portDisable | .portRestart | .captureClear
  | .counterClear | .unknownCommand | .segmentReset | .trafficPhase | .capturePhase
  | .segmentResetCompletion | .managementRead => true

end Sys2Proof
end

