-- ==== Sys2Proof/Decode.lean ====
section
/-! DEFINITION. Command words. No row of opcode_table.json carries bits, so no word spells a command (log 21). -/
namespace Sys2Proof

/-- The command a table word spells: none, since the table gives no row any bits. -/
def decodeTableWord (_nbits _w : Nat) : Option Instr := none

end Sys2Proof
end

