-- ==== Sys2Proof/Machine/Bits.lean ====
section
/-! DEFINITION. Bit fields, saturating counters and the two link checks. -/
namespace Sys2Proof.Machine

/-- A field of `k` bits placed with its lowest bit at `lo` of a word. -/
def fieldAt {k : Nat} (v : BitVec k) (lo : Nat) : Word := (v.setWidth 32) <<< lo

/-- A flag placed at bit `i` of a word. -/
def flagAt (b : Bool) (i : Nat) : Word := fieldAt (BitVec.ofBool b) i

/-- A count placed with its lowest bit at `lo` of a word, in `k` bits. -/
def countAt (k : Nat) (n : Nat) (lo : Nat) : Word := fieldAt (BitVec.ofNat k n) lo

/-- An increment that saturates at FFFFFFFFh (R20, R23, R115, R172). -/
def satInc (w : Word) : Word := if w = BitVec.allOnes 32 then w else w + 1

/-- An increment of a 16-bit load count that saturates at 65535 (R47). -/
def satInc16 (w : BitVec 16) : BitVec 16 := if w = BitVec.allOnes 16 then w else w + 1

/-- One bit into the frame check register: generator x^16 + x^12 + x^5 + 1 (R119). -/
def crc16Bit (reg : BitVec 16) (b : Bool) : BitVec 16 :=
  if reg.msb ^^ b then (reg <<< 1) ^^^ 0x1021#16 else reg <<< 1

/-- The bits of a vector, most significant first. -/
def bitsMsbFirst {k : Nat} (w : BitVec k) : List Bool := (List.range k).map (fun i => w.getMsbD i)

/-- The frame check of R119 over words in frame order, the register starting at FFFFh. -/
def crc16 (ws : List Word) : BitVec 16 :=
  ws.foldl (fun reg w => (bitsMsbFirst w).foldl crc16Bit reg) 0xFFFF#16

/-- One bit into the symbol check register: generator x^8 + x^2 + x + 1 (11.2). -/
def crc8Bit (reg : BitVec 8) (b : Bool) : BitVec 8 :=
  if reg.msb ^^ b then (reg <<< 1) ^^^ 0x07#8 else reg <<< 1

/-- The symbol check over bits 23:8, most significant first, the register starting at FFh (11.2). -/
def crc8 (body : BitVec 16) : BitVec 8 := (bitsMsbFirst body).foldl crc8Bit 0xFF#8

end Sys2Proof.Machine
end

