-- ==== Sys2Proof/Machine/Types.lean ====
section
/-! DEFINITION. The names, records and blocks of the director, with their encodings (11.1) and the value each
takes at power-on. -/
namespace Sys2Proof.Machine

/-! ### Names and their codes (11.1) -/

/-- The three request opcodes (R120). -/
inductive Opcode where
  | read | write | modify
  deriving DecidableEq, Repr

/-- Opcode codes: 0 READ, 1 WRITE, 2 MODIFY (11.1). -/
def Opcode.code : Opcode → BitVec 2
  | .read => 0#2
  | .write => 1#2
  | .modify => 2#2

/-- The opcode a code names; 3 names none (11.1). -/
def Opcode.ofCode (c : BitVec 2) : Option Opcode :=
  if c = 0#2 then some .read else if c = 1#2 then some .write else if c = 2#2 then some .modify else none

/-- The six decode selects (R4). -/
inductive Select where
  | port (p : PortNo)
  | mgmt
  | reject
  deriving DecidableEq, Repr

/-- Select codes: 0–3 PORT0–PORT3, 4 MGMT, 5 REJECT (11.1). -/
def Select.code : Select → BitVec 3
  | .port p => BitVec.ofNat 3 p.val
  | .mgmt => 4#3
  | .reject => 5#3

/-- The select a code names; 6 and 7 name none (11.1). -/
def Select.ofCode (c : BitVec 3) : Option Select :=
  if c = 0#3 then some (.port 0) else if c = 1#3 then some (.port 1) else if c = 2#3 then some (.port 2)
  else if c = 3#3 then some (.port 3) else if c = 4#3 then some .mgmt else if c = 5#3 then some .reject
  else none

/-- The six selects in the order of their codes. -/
def Select.all : List Select := [.port 0, .port 1, .port 2, .port 3, .mgmt, .reject]

/-- The defined status codes (R123). -/
inductive Status where
  | ok | refused | conflict | protectedAccess | span | noTarget | busy | tagInUse | badRequest | timeout
  | targetLost | aborted | targetError | locked | invalidImage
  deriving DecidableEq, Repr

/-- Status codes 0–14 (11.1). -/
def Status.code : Status → BitVec 8
  | .ok => 0#8
  | .refused => 1#8
  | .conflict => 2#8
  | .protectedAccess => 3#8
  | .span => 4#8
  | .noTarget => 5#8
  | .busy => 6#8
  | .tagInUse => 7#8
  | .badRequest => 8#8
  | .timeout => 9#8
  | .targetLost => 10#8
  | .aborted => 11#8
  | .targetError => 12#8
  | .locked => 13#8
  | .invalidImage => 14#8

/-- Every defined status, in code order. -/
def Status.all : List Status :=
  [.ok, .refused, .conflict, .protectedAccess, .span, .noTarget, .busy, .tagInUse, .badRequest, .timeout,
   .targetLost, .aborted, .targetError, .locked, .invalidImage]

/-- The status a code names; 15–255 are undefined (11.1). -/
def Status.ofCode (c : BitVec 8) : Option Status := Status.all.find? (fun st => st.code = c)

/-- Port states (R95). -/
inductive PortState where
  | disabled | linking | active | parked | waking | draining | faulted
  deriving DecidableEq, Repr

/-- Port state codes (11.1). -/
def PortState.code : PortState → BitVec 3
  | .disabled => 0#3
  | .linking => 1#3
  | .active => 2#3
  | .parked => 3#3
  | .waking => 4#3
  | .draining => 5#3
  | .faulted => 6#3

/-- Fault reasons (R95). -/
inductive FaultReason where
  | noFault | linkTimeout | wakeTimeout | linkLost
  deriving DecidableEq, Repr

/-- Fault reason codes (11.1). -/
def FaultReason.code : FaultReason → BitVec 2
  | .noFault => 0#2
  | .linkTimeout => 1#2
  | .wakeTimeout => 2#2
  | .linkLost => 3#2

/-- Transaction entry states (R70). -/
inductive EntryState where
  | free | opened | expired
  deriving DecidableEq, Repr

/-- Entry state codes (11.1). -/
def EntryState.code : EntryState → BitVec 2
  | .free => 0#2
  | .opened => 1#2
  | .expired => 2#2

/-- Event kinds (R167). -/
inductive EventKind where
  | timeout | late | stray | portState | conflict | capture | commit | linkUp
  deriving DecidableEq, Repr

/-- Event kind codes, the mask bit of each (11.1). -/
def EventKind.code : EventKind → BitVec 3
  | .timeout => 0#3
  | .late => 1#3
  | .stray => 2#3
  | .portState => 3#3
  | .conflict => 4#3
  | .capture => 5#3
  | .commit => 6#3
  | .linkUp => 7#3

/-- A capture cell, CC0–CC7. -/
abbrev CellNo := Fin 8
/-- A term index (R1). -/
abbrev TermNo := Fin 64
/-- A window index (R1). -/
abbrev WindowNo := Fin 16

/-- What an event record is about (R168). -/
inductive Locus where
  | nowhere
  | port (p : PortNo)
  | cell (c : CellNo)
  | term (t : TermNo)
  deriving DecidableEq, Repr

/-- The outcome a capture record holds (R42): a select, with the default marker or without, or CONFLICT. -/
inductive RecOutcome where
  | chosen (sel : Select) (byDefault : Bool)
  | conflict
  deriving DecidableEq, Repr

/-- Recorded outcome: bits 3:0 the select code or 6 for CONFLICT, bit 4 the default marker (11.1). -/
def RecOutcome.code : RecOutcome → BitVec 5
  | .chosen sel byDefault => (sel.code.setWidth 5) ||| (if byDefault then 0x10#5 else 0#5)
  | .conflict => 6#5

/-! ### Requests, responses and what travels on a link -/

/-- A source and a tag: together they name one request (R120). -/
structure Pair where
  src : BitVec 4
  tag : BitVec 6
  deriving DecidableEq, Repr

/-- A request as accepted, or, once decoded to a port, with its forwarded address (R15, R120, R138). -/
structure Request where
  pair : Pair
  opcode : Opcode
  length : BitVec 7
  addr : Word
  payload : List Word
  deriving DecidableEq, Repr

/-- A response frame (R122). -/
structure Rsp where
  pair : Pair
  status : Status
  length : BitVec 7
  payload : List Word
  deriving DecidableEq, Repr

/-- A notification frame (R124). -/
structure Ntf where
  src : BitVec 4
  origin : BitVec 3
  length : BitVec 4
  payload : List Word
  deriving DecidableEq, Repr

/-- A frame of the egress queue (R135). -/
inductive UpFrame where
  | rsp (r : Rsp)
  | ntf (n : Ntf)
  deriving DecidableEq, Repr

/-- An issued request in a send slot: its entry, and the segment identity standing at the issue (R71, R99). -/
structure SlotItem where
  entry : EntryNo
  src : BitVec 4
  opcode : Opcode
  length : BitVec 7
  addr : Word
  payload : List Word
  deriving DecidableEq, Repr

/-- A sender's credit for one class: a number 0–254, or open (R126). -/
inductive Credit where
  | counted (n : Fin 255)
  | unlimited
  deriving DecidableEq, Repr

/-- The count of a GRANT as a credit: 255 makes it open (R126). -/
def Credit.ofCount (c : BitVec 8) : Credit :=
  if h : c.toNat < 255 then .counted ⟨c.toNat, h⟩ else .unlimited

/-- The credit as the port block shows it: 255 is open (11.4). -/
def Credit.code : Credit → BitVec 8
  | .counted n => BitVec.ofNat 8 n.val
  | .unlimited => 255#8

/-- A credit of 0. -/
def Credit.zero : Credit := .counted 0

/-- A frame may be sent while the credit is open or above 0 (R126). -/
def Credit.allows : Credit → Bool
  | .counted n => n.val ≠ 0
  | .unlimited => true

/-- A frame sent lowers a counted credit by one and leaves an open one open (R126). -/
def Credit.spend : Credit → Credit
  | .counted n => .counted ⟨n.val - 1, by omega⟩
  | .unlimited => .unlimited

/-- What the director puts on a link: a frame as its words, or a 24-bit symbol (11.2). -/
inductive Tx where
  | frame (ws : List Word)
  | symbol (s : BitVec 24)
  deriving DecidableEq, Repr

/-! ### Bank images (R1, R4, R28) -/

/-- The polarity of a term (R4). -/
inductive Polarity where
  | assert | inhibit
  deriving DecidableEq, Repr

/-- A term, its fields stored as written (R4, R177). The window field is read only when `windowPresent`,
the cell field only when `capturePresent` (11.3). -/
structure Term where
  valid : Bool
  polarity : Polarity
  select : BitVec 3
  windowPresent : Bool
  window : BitVec 4
  capturePresent : Bool
  cell : BitVec 3
  opcodes : BitVec 3
  value : Word
  mask : Word
  sources : BitVec 16
  needFull : BitVec 8
  needEmpty : BitVec 8
  deriving DecidableEq, Repr

/-- A window (R28). -/
structure Window where
  valid : Bool
  readAllowed : Bool
  writeAllowed : Bool
  exponent : BitVec 5
  base : Word
  translated : Word
  deriving DecidableEq, Repr

/-- A bank image: header, 64 terms and 16 windows (R1). -/
structure Image where
  defaultSelect : BitVec 3
  label : BitVec 16
  terms : Table Term 64
  windows : Table Window 16
  deriving DecidableEq, Repr

/-- A term that is not valid, every other field zero, empty or none (R26). -/
def Term.empty : Term :=
  { valid := false, polarity := .assert, select := 0#3, windowPresent := false, window := 0#4,
    capturePresent := false, cell := 0#3, opcodes := 0#3, value := 0#32, mask := 0#32, sources := 0#16,
    needFull := 0#8, needEmpty := 0#8 }

/-- A window that is not valid, every other field zero (R26). -/
def Window.empty : Window :=
  { valid := false, readAllowed := false, writeAllowed := false, exponent := 0#5, base := 0#32,
    translated := 0#32 }

/-- The empty image (R26): default select REJECT, label 0, nothing valid. -/
def Image.empty : Image :=
  { defaultSelect := 5#3, label := 0#16, terms := Table.replicate 64 Term.empty,
    windows := Table.replicate 16 Window.empty }

/-- Term 0 of the boot image (R25). -/
def Term.boot : Term :=
  { valid := true, polarity := .assert, select := 4#3, windowPresent := false, window := 0#4,
    capturePresent := false, cell := 0#3, opcodes := 0b111#3, value := 0xFFFF0000#32,
    mask := 0xFFFF0000#32, sources := 0xFFFF#16, needFull := 0#8, needEmpty := 0#8 }

/-- The boot image (R25): the empty image but for term 0, which passes the management window to MGMT. -/
def Image.boot : Image :=
  { defaultSelect := 5#3, label := 0#16, terms := (Table.replicate 64 Term.empty).set 0 Term.boot,
    windows := Table.replicate 16 Window.empty }

/-! ### Capture cells (R41, R42) -/

/-- The mode of a cell (R41). -/
inductive CellMode where
  | latch | track
  deriving DecidableEq, Repr

/-- The record of a cell (R42). -/
structure CaptureRecord where
  pair : Pair
  opcode : Opcode
  addr : Word
  length : BitVec 7
  term : BitVec 6
  outcome : RecOutcome
  stamp : Word
  generation : BitVec 16
  deriving DecidableEq, Repr

/-- The zeroed record of an EMPTY cell (R41). -/
def CaptureRecord.zero : CaptureRecord :=
  { pair := ⟨0#4, 0#6⟩, opcode := .read, addr := 0#32, length := 0#7, term := 0#6,
    outcome := .chosen (.port 0) false, stamp := 0#32, generation := 0#16 }

/-- A capture cell (R41). -/
structure Cell where
  mode : CellMode
  hold : Bool
  full : Bool
  record : CaptureRecord
  loads : BitVec 16
  deriving DecidableEq, Repr

/-- A cell emptied, its mode and hold flag kept (R53). -/
def Cell.emptied (c : Cell) : Cell := { c with full := false, record := .zero, loads := 0#16 }

/-- A cell after POR: LATCH, hold clear, EMPTY (R53). -/
def Cell.powerOn : Cell :=
  { mode := .latch, hold := false, full := false, record := .zero, loads := 0#16 }

/-! ### The transaction table (R70) -/

/-- A transaction entry (R70). -/
structure Entry where
  state : EntryState
  pair : Pair
  port : PortNo
  opcode : Opcode
  length : BitVec 7
  addr : Word
  timer : Nat
  stamp : Word
  deriving DecidableEq, Repr

/-- A FREE entry, every other field zero (R70). -/
def Entry.blank : Entry :=
  { state := .free, pair := ⟨0#4, 0#6⟩, port := 0, opcode := .read, length := 0#7, addr := 0#32,
    timer := 0, stamp := 0#32 }

/-! ### Events (R168) -/

/-- An event record (R168). -/
structure EventRecord where
  kind : EventKind
  locus : Locus
  pair : Option Pair
  detail : Word
  stamp : Word
  deriving DecidableEq, Repr

/-! ### The blocks -/

/-- The states of the upstream link (R129). -/
inductive UpLink where
  | linking | up
  deriving DecidableEq, Repr

/-- The five claimants of unreserved room (R144). -/
inductive Claimant where
  | port (p : PortNo)
  | events
  deriving DecidableEq, Repr

/-- UP: the upstream link, the intake and the egress queue (R129, R130, R135). -/
structure Up where
  link : UpLink
  /-- HELLO interval timer; `none` is stopped. -/
  hello : Option Nat
  segId : BitVec 4
  rspCredit : Credit
  ntfCredit : Credit
  /-- The controller's REQ credit as the director counts it. -/
  reqCredit : Nat
  parked : Bool
  pause : Bool
  egress : List UpFrame
  reservations : Nat
  /-- The live tag set, without repeats, in acceptance order. -/
  live : List Pair
  claim : Claimant
  /-- The model's own: what has been put on the upstream link, oldest first (log 7). -/
  sent : List Tx
  deriving DecidableEq, Repr

/-- DA: the intake, both banks, the state beside them and the cells (R12, R23, R41, R54). -/
structure Da where
  intake : List Request
  active : Image
  staging : Image
  generation : BitVec 16
  lock : Bool
  retain : Bool
  hits : Table Word 64
  cells : Table Cell 8
  rcvSrc : BitVec 4
  rcvEn : Bool
  deriving DecidableEq, Repr

/-- TT: the entries, the hold queues and the round-robin pointer (R70, R73, R76). -/
structure Tt where
  entries : Table Entry 32
  holds : Table (List Request) 4
  rr : PortNo
  deriving DecidableEq, Repr

/-- A downstream port (R95, R96). A timer that is `none` is stopped. -/
structure Port where
  state : PortState
  reason : FaultReason
  limit : BitVec 5
  respTimeout : BitVec 16
  idleInterval : BitVec 8
  wakeTimeout : BitVec 8
  linkTimeout : BitVec 8
  notify : Bool
  linkTimer : Option Nat
  helloTimer : Option Nat
  idleTimer : Option Nat
  wakeTimer : Option Nat
  slot : List SlotItem
  credit : Credit
  ntfBuf : Option Ntf
  ntfGranted : Bool
  bad : Word
  stray : Word
  late : Word
  discarded : Word
  /-- The model's own: what has been put on the port's link, oldest first (log 7). -/
  sent : List Tx
  deriving DecidableEq, Repr

/-- The happenings of a SEGMENT-RESET that follow its start, in order (R162, R163). -/
inductive ResetPhase where
  | traffic | capture | completion
  deriving DecidableEq, Repr

/-- The command state (R149). EXECUTING holds the phase that comes next and the pair of the SEGMENT-RESET
write, which stays live until completion (R161; log 14). -/
inductive CommandState where
  | idle
  | executing (next : ResetPhase) (write : Pair)
  deriving DecidableEq, Repr

/-- The outcome of the last command taken; command 0 is none (R149, R178). -/
structure LastResult where
  command : BitVec 8
  status : Status
  detail : Word
  deriving DecidableEq, Repr

/-- MU (R149). -/
structure Mu where
  queue : List Request
  cmd : CommandState
  arg : Word
  last : LastResult
  aborts : Nat
  deriving DecidableEq, Repr

/-- The decision counters, in the order of their words (R172, 11.4). -/
inductive DecisionCounter where
  | select (s : Select)
  | default
  | conflict
  | span
  | protectedAccess
  deriving DecidableEq, Repr

/-- The place of a decision counter from 0400h on (11.4). -/
def DecisionCounter.index : DecisionCounter → Fin 10
  | .select (.port p) => ⟨p.val, by omega⟩
  | .select .mgmt => 4
  | .select .reject => 5
  | .default => 6
  | .conflict => 7
  | .span => 8
  | .protectedAccess => 9

/-- EQ: mask, event queue and counters (R167, R169, R172). -/
structure Events where
  mask : BitVec 8
  queue : List EventRecord
  overflow : Bool
  marker : Bool
  decisions : Table Word 10
  upBad : Word
  upBadRequest : Word
  upTagInUse : Word
  upLinkLoss : Word
  deriving DecidableEq, Repr

/-- TB (R173, R174): the divider, the length and the progress of the tick under way, the timestamp. -/
structure Timebase where
  divider : BitVec 8
  tickLength : BitVec 8
  progress : Nat
  timestamp : Word
  deriving DecidableEq, Repr

/-! ### Power-on values of the blocks -/

/-- A port after POR: DISABLED, with the default configuration (R95, R96, R117). -/
def Port.powerOn : Port :=
  { state := .disabled, reason := .noFault, limit := 8#5, respTimeout := 625#16, idleInterval := 0#8,
    wakeTimeout := 63#8, linkTimeout := 20#8, notify := true, linkTimer := none, helloTimer := none,
    idleTimer := none, wakeTimer := none, slot := [], credit := Credit.zero, ntfBuf := none,
    ntfGranted := false, bad := 0#32, stray := 0#32, late := 0#32, discarded := 0#32, sent := [] }

/-- TT after POR, pin reset or SEGMENT-RESET (R93). -/
def Tt.powerOn : Tt :=
  { entries := Table.replicate 32 Entry.blank, holds := Table.replicate 4 [], rr := 0 }

/-- DA after POR, with the recovery straps as sampled (R27, R53, R54, R69). -/
def Da.powerOn (straps : Straps) : Da :=
  { intake := [], active := Image.boot, staging := Image.empty, generation := 0#16, lock := false,
    retain := false, hits := Table.replicate 64 0#32, cells := Table.replicate 8 Cell.powerOn,
    rcvSrc := straps.rcvSrc, rcvEn := straps.rcvEn }

/-- MU after POR and pin reset (R149, R166). -/
def Mu.powerOn : Mu :=
  { queue := [], cmd := .idle, arg := 0#32, last := ⟨0#8, .ok, 0#32⟩, aborts := 0 }

/-- EQ after POR (R175). -/
def Events.powerOn : Events :=
  { mask := Config.defaultMask, queue := [], overflow := false, marker := false,
    decisions := Table.replicate 10 0#32, upBad := 0#32, upBadRequest := 0#32, upTagInUse := 0#32,
    upLinkLoss := 0#32 }

/-- TB after POR: the divider and the timestamp of R175. That the tick under way has the length of that divider and no
period behind it is the model's choice, since R175 gives no value for either (log 17). -/
def Timebase.powerOn : Timebase :=
  { divider := Config.defaultDivider, tickLength := Config.defaultDivider, progress := 0,
    timestamp := 0#32 }

/-- UP as a reset leaves it, before the HELLO of the end of the reset is sent (R129, R148). -/
def Up.powerOn (segId : BitVec 4) : Up :=
  { link := .linking, hello := some Config.helloInterval, segId := segId, rspCredit := Credit.zero,
    ntfCredit := Credit.zero, reqCredit := 0, parked := false, pause := false, egress := [],
    reservations := 0, live := [], claim := .port 0, sent := [] }

end Sys2Proof.Machine
end

