-- ==== Sys2Proof/Machine/Wire.lean ====
section
/-! DEFINITION. Frames and symbols as they stand on a link (R119, R120, R122, R124, R125, R176, 11.2). -/
namespace Sys2Proof.Machine

/-! ### Symbols -/

/-- The frame classes of a GRANT and of a frame: 0 REQ, 1 RSP, 2 NTF (11.1). -/
inductive FrameClass where
  | req | rsp | ntf
  deriving DecidableEq, Repr

/-- Frame class codes (11.1). -/
def FrameClass.code : FrameClass → BitVec 2
  | .req => 0#2
  | .rsp => 1#2
  | .ntf => 2#2

/-- The class a code names; 3 names none (11.1). -/
def FrameClass.ofCode (c : BitVec 2) : Option FrameClass :=
  if c = 0#2 then some .req else if c = 1#2 then some .rsp else if c = 2#2 then some .ntf else none

/-- Symbol types: 0 HELLO, 1 READY, 2 PARK, 3 WAKE, 4 DOWN, 5 GRANT (11.2). -/
inductive SymType where
  | hello | ready | park | wake | down | grant
  deriving DecidableEq, Repr

/-- Symbol type codes (11.2). -/
def SymType.code : SymType → BitVec 3
  | .hello => 0#3
  | .ready => 1#3
  | .park => 2#3
  | .wake => 3#3
  | .down => 4#3
  | .grant => 5#3

/-- The symbol check of a type and an argument (11.2). -/
def symbolCheck (t : SymType) (arg : SymArg) : SymCheck := crc8 (t.code ++ arg)

/-- A symbol as the director sends it, with its check (R125, 11.2). -/
def symbolBits (t : SymType) (arg : SymArg) : BitVec 24 := t.code ++ arg ++ symbolCheck t arg

/-- HELLO carrying a segment identity in bits 11:8, the other argument bits zero (R176). -/
def helloSymbol (segId : BitVec 4) : Tx := .symbol (symbolBits .hello (segId.setWidth 13))

/-- A symbol without argument; its argument bits are sent as zero (R176). -/
def plainSymbol (t : SymType) : Tx := .symbol (symbolBits t 0#13)

/-- GRANT: the class in bits 20:19, the count in bits 15:8 (11.2). -/
def grantSymbol (c : FrameClass) (count : BitVec 8) : Tx :=
  .symbol (symbolBits .grant (c.code ++ 0#3 ++ count))

/-- A received symbol of type `t` passes its check; one that fails it is ignored (R125). -/
def symbolOk (t : SymType) (arg : SymArg) (check : SymCheck) : Bool := check = symbolCheck t arg

/-- The class of a received GRANT; code 3 names none (R176). -/
def grantClass (arg : SymArg) : Option FrameClass := FrameClass.ofCode (arg.extractLsb' 11 2)

/-- The count of a received GRANT (11.2). -/
def grantCount (arg : SymArg) : BitVec 8 := arg.extractLsb' 0 8

/-- The identity of a received HELLO, bits 11:8 (R176). -/
def helloIdentity (arg : SymArg) : BitVec 4 := arg.extractLsb' 0 4

/-! ### Frames sent -/

/-- A frame ends with its check in the low half of the check word (R119). -/
def withCheck (ws : List Word) : List Word := ws ++ [(crc16 ws).setWidth 32]

/-- A request as sent downstream: the entry index is the tag (R71, 11.2). -/
def requestWords (i : SlotItem) : List Word :=
  withCheck ((fieldAt FrameClass.req.code 30 ||| fieldAt i.src 26 ||| countAt 6 i.entry.val 20
    ||| fieldAt i.opcode.code 18 ||| fieldAt i.length 11) :: i.addr :: i.payload)

/-- A response as sent upstream (R122, 11.2). -/
def responseWords (r : Rsp) : List Word :=
  withCheck ((fieldAt FrameClass.rsp.code 30 ||| fieldAt r.pair.src 26 ||| fieldAt r.pair.tag 20
    ||| fieldAt r.status.code 12 ||| fieldAt r.length 5) :: r.payload)

/-- A notification as sent upstream (R124, 11.2). -/
def notificationWords (n : Ntf) : List Word :=
  withCheck ((fieldAt FrameClass.ntf.code 30 ||| fieldAt n.src 26 ||| fieldAt n.origin 23
    ||| fieldAt n.length 19) :: n.payload)

/-- A frame of the egress queue as sent (R119). -/
def UpFrame.words : UpFrame → List Word
  | .rsp r => responseWords r
  | .ntf n => notificationWords n

/-! ### Frames received -/

/-- Fixed words of a class, its check word among them: a request has a header and an address, a response
or a notification a header (11.2). -/
def fixedWords : Option FrameClass → Nat
  | some .req => 3
  | some .rsp | some .ntf | none => 2

/-- The payload a class allows; no bound is stated for a frame of no defined class (R119). -/
def payloadFits : Option FrameClass → Nat → Bool
  | some .req, n => n ≤ 128
  | some .rsp, n => n ≤ 64
  | some .ntf, n => n ≤ 8
  | none, _ => true

/-- The header word; a frame of no words is given 0 and fails its check. -/
def headerWord (frame : List Word) : Word := frame.headD 0#32

/-- The class of a received frame; code 3 names none (R118, R176). -/
def frameClass (frame : List Word) : Option FrameClass :=
  FrameClass.ofCode ((headerWord frame).extractLsb' 30 2)

/-- The frame check of R119: the fixed words are there, the payload fits, and the check word is the check of the
words before it, its high half zero (R176). -/
def frameOk (frame : List Word) : Bool :=
  let c := frameClass frame
  fixedWords c ≤ frame.length && payloadFits c (frame.length - fixedWords c)
    && frame.getLast? = some ((crc16 frame.dropLast).setWidth 32)

/-- A request frame as its fields stand (R120, 11.2). -/
structure ReqFields where
  pair : Pair
  opcode : BitVec 2
  length : BitVec 7
  addr : Word
  payload : List Word
  deriving DecidableEq, Repr

/-- Reads the fields of a REQ frame that passed its check (11.2). -/
def readReq (frame : List Word) : ReqFields :=
  let h := headerWord frame
  { pair := ⟨h.extractLsb' 26 4, h.extractLsb' 20 6⟩, opcode := h.extractLsb' 18 2,
    length := h.extractLsb' 11 7, addr := (frame.drop 1).headD 0#32,
    payload := (frame.drop 2).dropLast }

/-- Payload words an opcode requires (R120). -/
def payloadWords (op : Opcode) (length : BitVec 7) : Nat :=
  match op with
  | .read => 0
  | .write => length.toNat
  | .modify => 2 * length.toNat

/-- The well-formed request of a frame, or `none` when it is malformed (R120, R176). -/
def wellFormedRequest (f : ReqFields) : Option Request :=
  match Opcode.ofCode f.opcode with
  | none => none
  | some op =>
    if 1 ≤ f.length.toNat ∧ f.length.toNat ≤ 64 ∧ f.payload.length = payloadWords op f.length then
      some { pair := f.pair, opcode := op, length := f.length, addr := f.addr, payload := f.payload }
    else none

/-- A target's response as its port hands it to TT: tag, status (`none` is undefined), payload (R122). -/
structure TargetRsp where
  tag : BitVec 6
  status : Option Status
  payload : List Word
  deriving DecidableEq, Repr

/-- Reads an RSP frame that passed its check; one whose length field is not its payload count is handed on as
TARGET-ERROR without payload (R122, R176). -/
def readRsp (frame : List Word) : TargetRsp :=
  let h := headerWord frame
  let payload := (frame.drop 1).dropLast
  if (h.extractLsb' 5 7).toNat = payload.length then
    { tag := h.extractLsb' 20 6, status := Status.ofCode (h.extractLsb' 12 8), payload := payload }
  else { tag := h.extractLsb' 20 6, status := some .targetError, payload := [] }

/-- Reads an NTF frame that passed its check, with its origin set to the port it arrived on; `none` when it is
malformed (R102, R124, R176). -/
def readNtf (p : PortNo) (frame : List Word) : Option Ntf :=
  let h := headerWord frame
  let len : BitVec 4 := h.extractLsb' 19 4
  let payload := (frame.drop 1).dropLast
  if 1 ≤ len.toNat ∧ len.toNat ≤ 8 ∧ payload.length = len.toNat then
    some { src := h.extractLsb' 26 4, origin := BitVec.ofNat 3 p.val, length := len, payload := payload }
  else none

end Sys2Proof.Machine
end

