-- ==== Sys2Proof/Machine/State.lean ====
section
/-! DEFINITION. The state of the director, block by block, and the state right after power-on reset. -/
namespace Sys2Proof.Machine

/-- The director: one field per block (00, Blocks), and the commands that wait (log 1). -/
structure State where
  up : Up
  da : Da
  tt : Tt
  dp : Table Port 4
  mu : Mu
  ev : Events
  tb : Timebase
  pending : List Instr
  deriving DecidableEq, Repr

/-- The director has no fault that stops it: every command has an effect in every state. No constructor. -/
inductive Fault where
  deriving DecidableEq, Repr

/-- `notModelled`: raised by no meaning; `exec`'s arm for a command that has no meaning yet would answer it, and there
is none (safe). -/
inductive Refusal where
  | notModelled (mnemonic : String)
  deriving DecidableEq, Repr

/-- The director as POR leaves it for the strap levels sampled: every block at its power-on values, HELLO sent on the
upstream link as the reset ends (R27, R69, R93, R117, R129, R130, R148, R166, R175). -/
def State.powerOn (straps : Straps) : State :=
  { up := { Up.powerOn straps.segId with sent := [helloSymbol straps.segId] }
    da := Da.powerOn straps
    tt := Tt.powerOn
    dp := Table.replicate 4 Port.powerOn
    mu := Mu.powerOn
    ev := Events.powerOn
    tb := Timebase.powerOn
    pending := [] }

/-- The strap levels of `State.reset`: all low. DESIGN CHOICE, unsafe: the spec leaves them to the board (log 3). -/
def Straps.low : Straps := { segId := 0#4, rcvSrc := 0#4, rcvEn := false }

/-- The director right after power-on reset. -/
def State.reset : State := State.powerOn Straps.low

end Sys2Proof.Machine
end

