-- ==== Sys2Proof/Machine/Flags.lean ====
section
/-! DEFINITION. Conditions read from the state: counts, room, credits, idleness, eligibility, what the decode and the
ports test. Nothing here changes the state. -/
namespace Sys2Proof.Machine

/-- The port with number `p`. -/
def State.port (s : State) (p : PortNo) : Port := s.dp.get p

/-- Hold queue `p` (R73). -/
def State.hold (s : State) (p : PortNo) : List Request := s.tt.holds.get p

/-- Entry `n` (R70). -/
def State.entry (s : State) (n : EntryNo) : Entry := s.tt.entries.get n

/-- An entry that is OPEN or EXPIRED for port `p`. -/
def Entry.names (e : Entry) (p : PortNo) : Bool := e.state ≠ .free && e.port = p

/-- An entry that is OPEN for port `p`. -/
def Entry.opensFor (e : Entry) (p : PortNo) : Bool := e.state = .opened && e.port = p

/-- The count of port `p`: the OPEN and EXPIRED entries that name it (R72). -/
def Tt.count (t : Tt) (p : PortNo) : Nat := t.entries.rows.countP (fun e => e.names p)

/-- The lowest-indexed FREE entry (R72). -/
def Tt.lowestFree (t : Tt) : Option EntryNo :=
  (List.finRange 32).find? (fun n => (t.entries.get n).state = .free)

/-- The ports in the order the arbiter considers them, from the round-robin pointer on (R77). -/
def portsFrom (p : PortNo) : List PortNo :=
  let all : List PortNo := [0, 1, 2, 3]
  all.drop p.val ++ all.take p.val

/-- The port after `p`, port 3 being followed by port 0 (R76). -/
def nextPort (p : PortNo) : PortNo := p + 1

/-- An issue to `p` is allowed by its limit (R72). -/
def State.belowLimit (s : State) (p : PortNo) : Bool := s.tt.count p < (s.port p).limit.toNat

/-- A port eligible for the issuing pass: ACTIVE, its hold queue not empty, its count below its limit (R77). -/
def State.eligible (s : State) (p : PortNo) : Bool :=
  (s.port p).state = .active && !(s.hold p).isEmpty && s.belowLimit p

/-- The port the arbiter chooses: the first eligible from the pointer on (R77). -/
def State.arbiterChoice (s : State) : Option PortNo := (portsFrom s.tt.rr).find? s.eligible

/-- The states in which the link is up (section 6.4). -/
def PortState.linkIsUp : PortState → Bool
  | .active | .parked | .waking | .draining => true
  | .disabled | .linking | .faulted => false

/-- The conditions under which the idle timer of `p` runs (R103). -/
def State.idleHolds (s : State) (p : PortNo) : Bool :=
  (s.port p).state = .active && s.tt.count p = 0 && (s.hold p).isEmpty && (s.port p).idleInterval ≠ 0#8

/-- Egress room: 40 less the frames queued less the reservations (R136). -/
def Up.room (u : Up) : Nat := Config.egressPlaces - u.egress.length - u.reservations

/-- UP's report of unreserved room: the link is UP and the room is at least 1 (R144). -/
def Up.reportsRoom (u : Up) : Bool := u.link = .up && 1 ≤ u.room

/-- The credit that governs a frame of the egress queue (R127). -/
def Up.creditFor (u : Up) : UpFrame → Credit
  | .rsp _ => u.rspCredit
  | .ntf _ => u.ntfCredit

/-- The frame at the head may be sent: the link is UP and the credit of its class allows (R127). -/
def Up.headMaySend (u : Up) : Bool :=
  match u.egress with
  | [] => false
  | f :: _ => u.link = .up && (u.creditFor f).allows

/-- A request of the send slot may be sent: the port is ACTIVE or DRAINING and its REQ credit allows (R99). -/
def Port.headMaySend (q : Port) : Bool :=
  (q.state = .active || q.state = .draining) && !q.slot.isEmpty && q.credit.allows

/-- A claimant waits: its buffer holds a notification, or the event queue holds a record (R144). -/
def State.waits (s : State) : Claimant → Bool
  | .port p => (s.port p).ntfBuf.isSome
  | .events => !s.ev.queue.isEmpty

/-- The five claimants in the order UP considers them, from the claim pointer on (R144). -/
def claimantsFrom : Claimant → List Claimant
  | .port p =>
    let all : List Claimant := [.port 0, .port 1, .port 2, .port 3, .events]
    all.drop p.val ++ all.take p.val
  | .events => [.events, .port 0, .port 1, .port 2, .port 3]

/-- The claimant after one, EQ being followed by port 0 (R144). -/
def Claimant.next : Claimant → Claimant
  | .port p => if h : p.val < 3 then .port ⟨p.val + 1, by omega⟩ else .events
  | .events => .port 0

/-- The claim UP takes next: the first claimant that waits, from the pointer on, while room is reported (R144). -/
def State.nextClaim (s : State) : Option Claimant :=
  if s.up.reportsRoom then (claimantsFrom s.up.claim).find? s.waits else none

/-- A port grants its target a notification when all of these hold (R100). -/
def State.grantsNtf (s : State) (p : PortNo) : Bool :=
  ((s.port p).state = .active || (s.port p).state = .parked || (s.port p).state = .waking)
    && !(s.port p).ntfGranted && (s.port p).ntfBuf.isNone && s.up.reportsRoom

/-- UP offers REQ grant: the link is UP, the pause clear, the controller not parked, and the room differs from
the counted credit (R142). -/
def Up.offersGrant (u : Up) : Bool :=
  u.link = .up && !u.pause && !u.parked && u.room ≠ u.reqCredit

/-- The set of FULL cells (R8). -/
def Da.fullCells (d : Da) : BitVec 8 :=
  (List.finRange 8).foldl (fun acc c => if (d.cells.get c).full then acc ||| (1#8 <<< c.val) else acc) 0#8

/-- The request MU may serve: the head of its input queue while it is IDLE (R151). -/
def Mu.head (m : Mu) : Option Request :=
  match m.cmd with
  | .idle => m.queue.head?
  | .executing _ _ => none

end Sys2Proof.Machine
end

