-- ==== Sys2Proof/Machine/Ops.lean ====
section
/-! DEFINITION. The operations the commands share: each block's own changes, lifted to the state, and the end of a
happening (`settle`). -/
namespace Sys2Proof.Machine

/-! ### Lifting a block's change to the state -/

def State.modUp (s : State) (f : Up → Up) : State := { s with up := f s.up }
def State.modDa (s : State) (f : Da → Da) : State := { s with da := f s.da }
def State.modTt (s : State) (f : Tt → Tt) : State := { s with tt := f s.tt }
def State.modMu (s : State) (f : Mu → Mu) : State := { s with mu := f s.mu }
def State.modEv (s : State) (f : Events → Events) : State := { s with ev := f s.ev }
def State.modTb (s : State) (f : Timebase → Timebase) : State := { s with tb := f s.tb }
/-- A change of one port; the other ports are left as they are. -/
def State.modPort (s : State) (p : PortNo) (f : Port → Port) : State := { s with dp := s.dp.modify p f }
/-- A change of every port. -/
def State.modPorts (s : State) (f : Port → Port) : State := { s with dp := s.dp.map f }

/-! ### UP: responses, sends, symbols -/

/-- A response of length 0 and no payload (R122). -/
def plainRsp (pair : Pair) (status : Status) : Rsp :=
  { pair := pair, status := status, length := 0#7, payload := [] }

/-- UP takes a response against its request's reservation: the frame joins the tail, the reservation is released and
the pair leaves the live tag set (R140). A pair that is not live has lost its reservation, and the frame is
discarded (R141; log 16). -/
def Up.respond (u : Up) (r : Rsp) : Up :=
  if r.pair ∈ u.live then
    { u with egress := u.egress ++ [.rsp r], reservations := u.reservations - 1, live := u.live.erase r.pair }
  else u

/-- A response handed to UP. -/
def State.respond (s : State) (r : Rsp) : State := s.modUp (fun u => u.respond r)

/-- An answer without payload handed to UP. -/
def State.answer (s : State) (pair : Pair) (status : Status) : State := s.respond (plainRsp pair status)

/-- Answers to several requests, in order. -/
def State.answerAll (s : State) (pairs : List Pair) (status : Status) : State :=
  s.modUp (fun u => pairs.foldl (fun u pair => u.respond (plainRsp pair status)) u)

/-- Something put on the upstream link. -/
def Up.put (u : Up) (t : Tx) : Up := { u with sent := u.sent ++ [t] }

/-- The credit of a frame's class lowered by its send (R126, R127). -/
def Up.spend (u : Up) : UpFrame → Up
  | .rsp _ => { u with rspCredit := u.rspCredit.spend }
  | .ntf _ => { u with ntfCredit := u.ntfCredit.spend }

/-- The head of the egress queue sent, if its class has credit (R127). -/
def Up.sendHead (u : Up) : Up :=
  match u.egress with
  | [] => u
  | f :: rest => if u.headMaySend then ({ u with egress := rest }.spend f).put (.frame f.words) else u

/-- At most `n` frames sent from the head, as far as the credits allow (R127). -/
def Up.sendMany : Nat → Up → Up
  | 0, u => u
  | n + 1, u => if u.headMaySend then Up.sendMany n u.sendHead else u

/-- GRANT for REQ of `n` frames; the counted credit becomes `n` (R142). -/
def Up.grantReq (u : Up) (n : Nat) : Up :=
  { u.put (grantSymbol .req (BitVec.ofNat 8 n)) with reqCredit := n }

/-! ### EQ: records -/

/-- EQ takes a record: nothing if its kind is disabled, else it joins the queue, or is dropped with the overflow
flag and marker pending set when the queue holds 8 (R167, R169). -/
def Events.hand (e : Events) (r : EventRecord) : Events :=
  if e.mask.getLsbD r.kind.code.toNat then
    if e.queue.length < Config.eventPlaces then { e with queue := e.queue ++ [r] }
    else { e with overflow := true, marker := true }
  else e

/-- A record handed to EQ with the timestamp standing at the happening (R168). -/
def State.handEvent (s : State) (kind : EventKind) (locus : Locus) (pair : Option Pair) (detail : Word) : State :=
  s.modEv (fun e => e.hand { kind := kind, locus := locus, pair := pair, detail := detail, stamp := s.tb.timestamp })

/-- A decision counter incremented (R20). -/
def Events.countDecision (e : Events) (c : DecisionCounter) : Events :=
  { e with decisions := e.decisions.modify c.index satInc }

/-- The locus of a record: its type in bits 5:4, its number in bits 13:8 (11.5). -/
def Locus.bits : Locus → Word
  | .nowhere => 0#32
  | .port p => fieldAt 1#2 4 ||| countAt 6 p.val 8
  | .cell c => fieldAt 2#2 4 ||| countAt 6 c.val 8
  | .term t => fieldAt 3#2 4 ||| countAt 6 t.val 8

/-- The source, tag and present bit of a record (11.5). -/
def pairBits : Option Pair → Word
  | none => 0#32
  | some q => fieldAt q.src 16 ||| fieldAt q.tag 20 ||| flagAt true 26

/-- The three payload words of an event notification (11.5). -/
def eventPayload (r : EventRecord) (marker : Bool) : List Word :=
  [fieldAt r.kind.code 0 ||| r.locus.bits ||| pairBits r.pair ||| flagAt marker 31, r.detail, r.stamp]

/-- The notification that carries a record: origin 7, length 3, the segment identity as source (R124, R170). -/
def eventNtf (segId : BitVec 4) (r : EventRecord) (marker : Bool) : Ntf :=
  { src := segId, origin := 7#3, length := 3#4, payload := eventPayload r marker }

/-! ### The end of a happening -/

/-- A notification or event frame taken into unreserved room; the pointer moves to the claimant after it (R144). -/
def Up.takeNtf (u : Up) (n : Ntf) (c : Claimant) : Up :=
  { u with egress := u.egress ++ [.ntf n], claim := c.next }

/-- UP takes the claim of one claimant whole (R102, R144, R170). -/
def State.takeClaim (s : State) : Claimant → State
  | .port p =>
    match (s.port p).ntfBuf with
    | none => s
    | some n => (s.modUp (fun u => u.takeNtf n (.port p))).modPort p (fun q => { q with ntfBuf := none })
  | .events =>
    match s.ev.queue with
    | [] => s
    | r :: rest =>
      (s.modUp (fun u => u.takeNtf (eventNtf u.segId r s.ev.marker) .events)).modEv
        (fun e => { e with queue := rest, marker := false })

/-- At most `n` claims taken, one at a time, while room is reported (R144). -/
def State.takeClaims : Nat → State → State
  | 0, s => s
  | n + 1, s =>
    match s.nextClaim with
    | none => s
    | some c => State.takeClaims n (s.takeClaim c)

/-- The idle timer of a port started, kept or stopped as its conditions now stand (R103; log 24), an upstream link loss
among the happenings that may bring them about (log 26). -/
def State.idleTimerOf (s : State) (p : PortNo) : Option Nat :=
  if s.idleHolds p then
    match (s.port p).idleTimer with
    | some k => some k
    | none => some (1000 * (s.port p).idleInterval.toNat)
  else none

/-- Every port's idle timer as its conditions now stand. -/
def State.settleIdle (s : State) : State :=
  { s with dp := s.dp.imap (fun p q => { q with idleTimer := s.idleTimerOf p }) }

/-- GRANT for NTF of one frame, and the grant is outstanding (R100). -/
def Port.grantNtf (q : Port) : Port :=
  { q with ntfGranted := true, sent := q.sent ++ [grantSymbol .ntf 1#8] }

/-- Every port whose conditions now hold grants its target one notification (R100). -/
def State.settleNtfGrants (s : State) : State :=
  { s with dp := s.dp.imap (fun p q => if s.grantsNtf p then q.grantNtf else q) }

/-- The comparison of room and counted credit at the end of a happening (R142). -/
def State.settleReqGrant (s : State) : State :=
  s.modUp (fun u => if u.offersGrant then u.grantReq u.room else u)

/-- The end of a happening: the claims that find room, one after another, then idle timers, then the ports' notification
grants, then the REQ grant the room left calls for (R100, R103, R142, R144; log 8). -/
def State.settle (s : State) : State :=
  (State.takeClaims Config.egressPlaces s).settleIdle.settleNtfGrants.settleReqGrant

/-! ### Ports: changes of state -/

/-- Something put on the port's link. -/
def Port.put (q : Port) (t : Tx) : Port := { q with sent := q.sent ++ [t] }

/-- A running idle timer restarted (R103). -/
def Port.restartIdle (q : Port) : Port :=
  { q with idleTimer := q.idleTimer.map (fun _ => 1000 * q.idleInterval.toNat) }

/-- Entry to LINKING: HELLO sent, the HELLO interval and link timers started, credit and grant cleared (R98). -/
def Port.enterLinking (segId : BitVec 4) (q : Port) : Port :=
  { q with
    state := .linking, reason := .noFault, helloTimer := some Config.helloInterval,
    linkTimer := some (1000 * q.linkTimeout.toNat), idleTimer := none, wakeTimer := none,
    credit := Credit.zero, ntfGranted := false, sent := q.sent ++ [helloSymbol segId] }

/-- Entry to ACTIVE: the timers of the state left stop (R95, R98, R103, R105). -/
def Port.enterActive (q : Port) : Port :=
  { q with state := .active, reason := .noFault, linkTimer := none, helloTimer := none, wakeTimer := none }

/-- Entry to FAULTED: timers stop, credit 0, no grant outstanding (R99, R100, R106, R107). -/
def Port.enterFaulted (why : FaultReason) (q : Port) : Port :=
  { q with
    state := .faulted, reason := why, linkTimer := none, helloTimer := none, idleTimer := none,
    wakeTimer := none, credit := Credit.zero, ntfGranted := false }

/-- Entry to DISABLED: timers stop, credit 0, no grant outstanding, fault reason none (R106, R110). -/
def Port.enterDisabled (q : Port) : Port :=
  { q with
    state := .disabled, reason := .noFault, linkTimer := none, helloTimer := none, idleTimer := none,
    wakeTimer := none, credit := Credit.zero, ntfGranted := false }

/-- Entry to DRAINING: the idle timer stops and GRANT for NTF with count 0 is sent (R100, R108). -/
def Port.enterDraining (q : Port) : Port :=
  { q with
    state := .draining, idleTimer := none, ntfGranted := false,
    sent := q.sent ++ [grantSymbol .ntf 0#8] }

/-- Parking: PARK sent, credit 0 (R103). -/
def Port.enterParked (q : Port) : Port :=
  { q with state := .parked, idleTimer := none, credit := Credit.zero, sent := q.sent ++ [plainSymbol .park] }

/-- The start of a wake: WAKE sent, wake timer started (R104). -/
def Port.enterWaking (q : Port) : Port :=
  { q with state := .waking, wakeTimer := some (16 * q.wakeTimeout.toNat), sent := q.sent ++ [plainSymbol .wake] }

/-- The detail of a PORT-STATE record: new state, state left, fault reason (11.5). -/
def portStateDetail (new left : PortState) (why : FaultReason) : Word :=
  fieldAt new.code 0 ||| fieldAt left.code 4 ||| fieldAt why.code 8

/-- A port's change of state that makes a PORT-STATE event (R114). -/
def State.movePort (s : State) (p : PortNo) (f : Port → Port) : State :=
  let t := s.modPort p f
  t.handEvent .portState (.port p) none (portStateDetail (t.port p).state (s.port p).state (t.port p).reason)

/-- The head of the send slot sent, if the port may send; a running idle timer restarts (R99, R103). -/
def Port.sendHead (q : Port) : Port :=
  match q.slot with
  | [] => q
  | i :: rest =>
    if q.headMaySend then
      ({ q with slot := rest, credit := q.credit.spend }.put (.frame (requestWords i))).restartIdle
    else q

/-- At most `n` requests sent from the slot, as far as the credit allows (R99). -/
def Port.sendMany : Nat → Port → Port
  | 0, q => q
  | n + 1, q => if q.headMaySend then Port.sendMany n q.sendHead else q

/-! ### TT: issue, answers, freed entries -/

/-- Ticks of the response timeout of a port (R82). -/
def Port.timeoutTicks (q : Port) : Nat := 16 * q.respTimeout.toNat

/-- The entry an issue fills (R75). -/
def State.issuedEntry (s : State) (p : PortNo) (r : Request) : Entry :=
  { state := .opened, pair := r.pair, port := p, opcode := r.opcode, length := r.length, addr := r.addr,
    timer := (s.port p).timeoutTicks, stamp := s.tb.timestamp }

/-- The request an issue hands to the port (R71). -/
def State.issuedItem (s : State) (n : EntryNo) (r : Request) : SlotItem :=
  { entry := n, src := s.up.segId, opcode := r.opcode, length := r.length, addr := r.addr, payload := r.payload }

/-- Issue of one request into entry `n` (R71, R75). -/
def State.issueInto (s : State) (n : EntryNo) (p : PortNo) (r : Request) : State :=
  (s.modTt (fun t => { t with entries := t.entries.set n (s.issuedEntry p r) })).modPort p
    (fun q => { q with slot := q.slot ++ [s.issuedItem n r] })

/-- The head of hold queue `p` issued into the lowest FREE entry; the pointer moves past `p` (R76, R77). -/
def State.issueHeld (s : State) (n : EntryNo) (p : PortNo) : State :=
  match s.hold p with
  | [] => s
  | r :: rest =>
    (s.modTt (fun t => { t with holds := t.holds.set p rest, rr := nextPort p })).issueInto n p r

/-- At most `k` rounds of the issuing pass (R77). -/
def State.passRounds : Nat → State → State
  | 0, s => s
  | k + 1, s =>
    match s.arbiterChoice, s.tt.lowestFree with
    | some p, some n => State.passRounds k (s.issueHeld n p)
    | _, _ => s

/-- The issuing pass: each round takes a FREE entry, so 32 rounds are enough (R77). -/
def State.issuingPass (s : State) : State := State.passRounds 32 s

/-- Entry `n` becomes FREE (R70). -/
def State.freeEntry (s : State) (n : EntryNo) : State :=
  s.modTt (fun t => { t with entries := t.entries.set n Entry.blank })

/-- The request of entry `n` withdrawn from the send slot of `p`, if it has not been sent (R79, R83, R99). -/
def State.withdraw (s : State) (p : PortNo) (n : EntryNo) : State :=
  s.modPort p (fun q => { q with slot := q.slot.filter (fun i => i.entry ≠ n) })

/-- A drain completes when the port is DRAINING and its count is 0: DOWN sent, DISABLED, PORT-STATE event
(R108). -/
def State.finishDrain (s : State) (p : PortNo) : State :=
  if (s.port p).state = .draining ∧ s.tt.count p = 0 then
    s.movePort p (fun q => (q.put (plainSymbol .down)).enterDisabled)
  else s

/-- Pairs of the OPEN entries that satisfy a test, in ascending entry order. -/
def Tt.openPairs (t : Tt) (test : Entry → Bool) : List Pair :=
  (t.entries.rows.filter (fun e => e.state = .opened && test e)).map (fun e => e.pair)

/-- Every OPEN or EXPIRED entry of port `p` becomes FREE. -/
def Tt.freePort (t : Tt) (p : PortNo) : Tt :=
  { t with entries := t.entries.map (fun e => if e.names p then Entry.blank else e) }

/-- Hold queue `p` answered in queue order and emptied (R87, R88, R89). -/
def State.answerHold (s : State) (p : PortNo) (status : Status) : State :=
  (s.answerAll ((s.hold p).map (fun r => r.pair)) status).modTt (fun t => { t with holds := t.holds.set p [] })

/-- A port's entries answered and freed, its hold queue answered, its send slot emptied (R87, R89, R99). -/
def State.cutPort (s : State) (p : PortNo) (status : Status) : State :=
  (((s.answerAll (s.tt.openPairs (fun e => e.port = p)) status).modTt (fun t => t.freePort p)).answerHold p status).modPort p
    (fun q => { q with slot := [] })

/-! ### TT: a decoded request -/

/-- A request joins the tail of hold queue `p` (R73). -/
def State.joinHold (s : State) (p : PortNo) (r : Request) : State :=
  s.modTt (fun t => { t with holds := t.holds.modify p (fun q => q ++ [r]) })

/-- A request joins hold queue `p` if it holds fewer than 4, else it is answered BUSY (R74). -/
def State.holdOrBusy (s : State) (p : PortNo) (r : Request) : State :=
  if (s.hold p).length < Config.holdPlaces then s.joinHold p r else s.answer r.pair .busy

/-- TT takes a decoded port request by the state of its port (R74, R104). -/
def State.takeDecoded (s : State) (p : PortNo) (r : Request) : State :=
  match (s.port p).state with
  | .disabled | .linking | .draining | .faulted => s.answer r.pair .noTarget
  | .parked => (s.joinHold p r).modPort p Port.enterWaking
  | .waking => s.holdOrBusy p r
  | .active =>
    match s.tt.lowestFree with
    | some n => if (s.hold p).isEmpty && s.belowLimit p then s.issueInto n p r else s.holdOrBusy p r
    | none => s.holdOrBusy p r

end Sys2Proof.Machine
end

