-- ==== Sys2Proof/Machine/DecodeArray.lean ====
section
/-! DEFINITION. The decode of one request (R5 to R20, R23, R32 to R38, R42 to R48) and the command DECODE. -/
namespace Sys2Proof.Machine

/-! ### Hits, selects and the outcome -/

/-- A term hits a request: valid, and its address, opcode, source and capture conditions hold (R5 to R8). -/
def Term.hits (t : Term) (full : BitVec 8) (r : Request) : Bool :=
  t.valid && (r.addr &&& t.mask) = (t.value &&& t.mask) && t.opcodes.getLsbD r.opcode.code.toNat
    && t.sources.getLsbD r.pair.src.toNat && (t.needFull &&& ~~~ full) = 0#8 && (t.needEmpty &&& full) = 0#8

/-- The hitting terms, in ascending index order (R5). -/
def Image.hitting (im : Image) (full : BitVec 8) (r : Request) : List TermNo :=
  (List.finRange 64).filter (fun n => (im.terms.get n).hits full r)

/-- A term acts on a select. -/
def Term.actsOn (t : Term) (sel : Select) : Bool := Select.ofCode t.select = some sel

/-- A term asserts a select when it hits. -/
def Term.assertsSel (t : Term) (sel : Select) : Bool := t.polarity = .assert && t.actsOn sel

/-- A term inhibits a select when it hits. -/
def Term.inhibitsSel (t : Term) (sel : Select) : Bool := t.polarity = .inhibit && t.actsOn sel

/-- A select is asserted: a hitting ASSERT term names it and no hitting INHIBIT term does (R9). -/
def Image.asserted (im : Image) (hits : List TermNo) (sel : Select) : Bool :=
  hits.any (fun n => (im.terms.get n).assertsSel sel) && !(hits.any (fun n => (im.terms.get n).inhibitsSel sel))

/-- The asserted selects, in the order of their codes (R9). -/
def Image.assertedSelects (im : Image) (hits : List TermNo) : List Select := Select.all.filter (im.asserted hits)

/-- The header's default select (R3). A code that names no select, which R2 rules out, is taken as REJECT (log 20). -/
def Image.defaultSel (im : Image) : Select := (Select.ofCode im.defaultSelect).getD .reject

/-- How the outcome was reached (R10, R14). -/
inductive Route where
  | recovery
  | asserted (sel : Select)
  | byDefault (sel : Select)
  | conflict (sels : List Select)
  deriving DecidableEq, Repr

/-- The recovery path condition (R14). -/
def Da.recovers (d : Da) (r : Request) : Bool :=
  d.rcvEn && r.pair.src = d.rcvSrc && Config.windowBase ≤ r.addr.toNat

/-- The outcome of a decode (R10, R14). -/
def Da.route (d : Da) (hits : List TermNo) (r : Request) : Route :=
  if d.recovers r then .recovery
  else
    match d.active.assertedSelects hits with
    | [] => .byDefault d.active.defaultSel
    | [sel] => .asserted sel
    | sels => .conflict sels

/-- The governing term: the lowest-indexed hitting ASSERT term of the select (R11). -/
def Image.governing (im : Image) (hits : List TermNo) (sel : Select) : Option TermNo :=
  hits.find? (fun n => (im.terms.get n).assertsSel sel)

/-! ### Windows -/

/-- The span check, computed without wrapping (R33, R34). -/
def Window.spanOk (w : Window) (r : Request) : Bool :=
  w.base.toNat ≤ r.addr.toNat && r.addr.toNat + r.length.toNat ≤ w.base.toNat + 2 ^ w.exponent.toNat

/-- The rights check (R35). -/
def Window.rightsOk (w : Window) (op : Opcode) : Bool :=
  match op with
  | .read => w.readAllowed
  | .write => w.writeAllowed
  | .modify => w.readAllowed && w.writeAllowed

/-- Where a decode sends its request. -/
inductive Verdict where
  | toPort (p : PortNo) (addr : Word)
  | toMgmt
  | refuse (status : Status)
  deriving DecidableEq, Repr

/-- A window applied: span check, rights check, translation, in this order (R32, R34, R35, R36). -/
def Window.apply (w : Window) (p : PortNo) (r : Request) : Verdict :=
  if !(w.spanOk r) then .refuse .span
  else if !(w.rightsOk r.opcode) then .refuse .protectedAccess
  else .toPort p (w.translated + (r.addr - w.base))

/-- An asserted port select: through the governing term's window, or unchanged without one (R32, R38). -/
def Image.portVerdict (im : Image) (hits : List TermNo) (p : PortNo) (r : Request) : Verdict :=
  match im.governing hits (.port p) with
  | none => .toPort p r.addr
  | some g =>
    let t := im.terms.get g
    if t.windowPresent then (im.windows.get t.window.toFin).apply p r else .toPort p r.addr

/-- What becomes of the request (R15 to R19). -/
def Image.verdict (im : Image) (hits : List TermNo) (r : Request) : Route → Verdict
  | .recovery => .toMgmt
  | .asserted (.port p) => im.portVerdict hits p r
  | .byDefault (.port p) => .toPort p r.addr
  | .asserted .mgmt | .byDefault .mgmt => .toMgmt
  | .asserted .reject | .byDefault .reject => .refuse .refused
  | .conflict _ => .refuse .conflict

/-- The outcome a capture record holds (R42). -/
def Route.recorded : Route → RecOutcome
  | .recovery => .chosen .mgmt false
  | .asserted sel => .chosen sel false
  | .byDefault sel => .chosen sel true
  | .conflict _ => .conflict

/-- The decision counters a decode increments (R20). -/
def decisionCounters : Route → Verdict → List DecisionCounter
  | .recovery, _ => [.select .mgmt]
  | .asserted sel, .refuse .span => [.select sel, .span]
  | .asserted sel, .refuse .protectedAccess => [.select sel, .protectedAccess]
  | .asserted sel, _ => [.select sel]
  | .byDefault sel, _ => [.select sel, .default]
  | .conflict _, _ => [.conflict]

/-! ### Capture -/

/-- The loading term of a cell: the lowest-indexed hitting term that names it (R43). -/
def Image.loadingTerm (im : Image) (hits : List TermNo) (c : CellNo) : Option TermNo :=
  hits.find? (fun n => (im.terms.get n).capturePresent && (im.terms.get n).cell.toNat = c.val)

/-- A cell takes an offered load: not held, and EMPTY or in TRACK mode (R44 to R46). -/
def Cell.takes (c : Cell) : Bool := !c.hold && (c.mode = .track || !c.full)

/-- A load taken (R42, R44, R45, R47). -/
def Cell.load (c : Cell) (rec : CaptureRecord) : Cell :=
  { c with full := true, record := rec, loads := satInc16 c.loads }

/-- The record a load writes (R42). -/
def State.captureRecord (s : State) (r : Request) (route : Route) (t : TermNo) : CaptureRecord :=
  { pair := r.pair, opcode := r.opcode, addr := r.addr, length := r.length, term := BitVec.ofNat 6 t.val,
    outcome := route.recorded, stamp := s.tb.timestamp, generation := s.da.generation }

/-- A cell after the load it is offered, if any (R43). -/
def State.loadedCell (s : State) (hits : List TermNo) (r : Request) (route : Route) (c : CellNo) (x : Cell) : Cell :=
  match s.da.active.loadingTerm hits c with
  | none => x
  | some t => if x.takes then x.load (s.captureRecord r route t) else x

/-- The CAPTURE record of a cell, made when a LATCH cell takes a load (R48); read before the loads are made. -/
def State.captureEvent (s : State) (hits : List TermNo) (r : Request) (route : Route) (c : CellNo) :
    Option EventRecord :=
  match s.da.active.loadingTerm hits c with
  | none => none
  | some t =>
    let x := s.da.cells.get c
    if x.takes && x.mode = .latch then
      some { kind := .capture, locus := .cell c, pair := some r.pair,
             detail := countAt 6 t.val 0 ||| fieldAt route.recorded.code 8, stamp := s.tb.timestamp }
    else none

/-- The CONFLICT record: the lowest-indexed hitting ASSERT term among the asserted selects, and their set
(R18, 11.5). -/
def State.conflictEvent (s : State) (hits : List TermNo) (r : Request) : Route → Option EventRecord
  | .conflict sels =>
    let t := (hits.find? (fun n => sels.any (fun sel => (s.da.active.terms.get n).assertsSel sel))).getD 0
    some { kind := .conflict, locus := .term t, pair := some r.pair,
           detail := sels.foldl (fun acc sel => acc ||| (1#32 <<< sel.code.toNat)) 0#32,
           stamp := s.tb.timestamp }
  | .recovery | .asserted _ | .byDefault _ => none

/-- The records of a decode: CAPTURE in ascending cell order, then CONFLICT (R13). -/
def State.decodeEvents (s : State) (hits : List TermNo) (r : Request) (route : Route) : List EventRecord :=
  (List.finRange 8).filterMap (s.captureEvent hits r route) ++ (s.conflictEvent hits r route).toList

/-! ### The decode -/

/-- MU takes a request with an MGMT outcome (R150). -/
def State.takeMgmt (s : State) (r : Request) : State :=
  match s.mu.cmd with
  | .executing _ _ => (s.answer r.pair .aborted).modMu (fun m => { m with aborts := m.aborts + 1 })
  | .idle =>
    if s.mu.queue.length < Config.muPlaces then s.modMu (fun m => { m with queue := m.queue ++ [r] })
    else s.answer r.pair .busy

/-- The hand-off of R15 to R19. -/
def State.handOff (s : State) (r : Request) : Verdict → State
  | .toPort p addr => s.takeDecoded p { r with addr := addr }
  | .toMgmt => s.takeMgmt r
  | .refuse status => s.answer r.pair status

/-- Steps 6 to 9 of R13 for a request whose hits and route are known; loads, counts and records are read from the
state before the hand-off, which leaves DA and TB alone. -/
def State.carryOut (s : State) (hits : List TermNo) (r : Request) (route : Route) : State :=
  let verdict := s.da.active.verdict hits r route
  let events := s.decodeEvents hits r route
  ((s.handOff r verdict).modDa (fun d =>
      { d with cells := d.cells.imap (s.loadedCell hits r route),
               hits := d.hits.imap (fun n w => if n ∈ hits then satInc w else w) })).modEv
    (fun e => events.foldl Events.hand ((decisionCounters route verdict).foldl Events.countDecision e))

/-- The decode of one request against the state as it stands (R13). -/
def State.decodeRequest (s : State) (r : Request) : State :=
  let hits := s.da.active.hitting s.da.fullCells r
  s.carryOut hits r (s.da.route hits r)

/-- DECODE: DA takes the oldest request of the intake, decodes it whole and removes it (R12, R13). -/
def execDecode (s : State) : Host.Outcome State Fault Refusal :=
  match s.da.intake with
  | [] => .next s
  | r :: rest => .next ((s.modDa (fun d => { d with intake := rest })).decodeRequest r).settle

end Sys2Proof.Machine
end

