-- ==== Sys2Proof/Machine/Downstream.lean ====
section
/-! DEFINITION. The downstream ports and the table's timers: received frames and symbols, sends, timers, link loss
(R78 to R85, R98 to R108). -/
namespace Sys2Proof.Machine

/-! ### Responses at TT -/

/-- What is forwarded upstream for an OPEN entry (R80). -/
def forwarded (e : Entry) (r : TargetRsp) : Rsp :=
  match r.status with
  | none => plainRsp e.pair .targetError
  | some .ok =>
    match e.opcode with
    | .read =>
      if r.payload.length = e.length.toNat then
        { pair := e.pair, status := .ok, length := e.length, payload := r.payload }
      else plainRsp e.pair .targetError
    | .write | .modify => plainRsp e.pair .ok
  | some st => plainRsp e.pair st

/-- The code a LATE record shows for a target's status: an undefined one is given as TARGET-ERROR (11.5). -/
def lateStatus (r : TargetRsp) : BitVec 8 := (r.status.getD .targetError).code

/-- An answer: forwarded against its reservation, the entry freed, an unsent request withdrawn, then the issuing pass
and the end of a drain (R79, R80). -/
def State.takeAnswer (s : State) (p : PortNo) (n : EntryNo) (r : TargetRsp) : State :=
  ((((s.respond (forwarded (s.entry n) r)).freeEntry n).withdraw p n).issuingPass).finishDrain p

/-- A late response: absorbed, counted and reported, the entry freed (R81). Where it ends a drain, the LATE record is
handed before the PORT-STATE record (R108, R168), which is the model's choice (log 27). -/
def State.takeLate (s : State) (p : PortNo) (n : EntryNo) (r : TargetRsp) : State :=
  ((((s.freeEntry n).modPort p (fun q => { q with late := satInc q.late })).handEvent .late (.port p)
    (some (s.entry n).pair) (countAt 5 n.val 0 ||| fieldAt (lateStatus r) 8)).issuingPass).finishDrain p

/-- What a stray response found under its tag: 0 FREE, 1 OPEN for another port, 2 EXPIRED for another port, 3 no
entry (11.5). -/
def State.strayFound (s : State) (tag : BitVec 6) : BitVec 2 :=
  if h : tag.toNat < 32 then (s.entry ⟨tag.toNat, h⟩).state.code else 3#2

/-- A stray response: discarded, counted and reported (R81). -/
def State.takeStray (s : State) (p : PortNo) (tag : BitVec 6) : State :=
  (s.modPort p (fun q => { q with stray := satInc q.stray })).handEvent .stray (.port p) none
    (fieldAt tag 0 ||| fieldAt (s.strayFound tag) 8)

/-- TT matches a response from port `p` by its downstream tag alone (R78, R79). -/
def State.matchResponse (s : State) (p : PortNo) (r : TargetRsp) : State :=
  if h : r.tag.toNat < 32 then
    let n : EntryNo := ⟨r.tag.toNat, h⟩
    if (s.entry n).port = p then
      match (s.entry n).state with
      | .opened => s.takeAnswer p n r
      | .expired => s.takeLate p n r
      | .free => s.takeStray p r.tag
    else s.takeStray p r.tag
  else s.takeStray p r.tag

/-! ### Frames received -/

/-- A notification from the target (R100, R102); the grant it used is no longer outstanding. `none` is a malformed one,
counted as a bad frame in every state, and received while DRAINING as discarded too (R115; log 25). -/
def Port.takeNotification (q : Port) (n : Option Ntf) : Port :=
  let q := { q with ntfGranted := false, bad := if n.isNone then satInc q.bad else q.bad }
  if q.state = .draining then { q with discarded := satInc q.discarded }
  else
    match n with
    | none => q
    | some n =>
      if !q.notify then { q with discarded := satInc q.discarded }
      else if q.ntfBuf.isSome then { q with discarded := satInc q.discarded }
      else { q with ntfBuf := some n }

/-- An RSP or NTF frame that passed its check, taken by TT or as a notification (R101). -/
def State.takeFrame (s : State) (p : PortNo) (c : FrameClass) (frame : List Word) : State :=
  match c with
  | .rsp => s.matchResponse p (readRsp frame)
  | .ntf => s.modPort p (fun q => q.takeNotification (readNtf p frame))
  | .req => s

/-- A frame from the far end takes a PARKED or WAKING port to ACTIVE first, and the issuing pass follows the match; in
ACTIVE it restarts a running idle timer (R78, R101, R103, R105). -/
def State.takeFarFrame (s : State) (p : PortNo) (c : FrameClass) (frame : List Word) : State :=
  match (s.port p).state with
  | .parked | .waking => ((s.movePort p Port.enterActive).takeFrame p c frame).issuingPass
  | .active => (s.modPort p Port.restartIdle).takeFrame p c frame
  | .draining => s.takeFrame p c frame
  | .disabled | .linking | .faulted => s

/-- DOWNSTREAM_FRAME: a frame received on the link of port `p`, taken whole in the state the port stands in. Outside
the states in which the link is up it is discarded without counting; a frame that fails its check, a REQ frame and a
frame of no defined class are counted as bad (R101, R118, R119). -/
def execDownstreamFrame (p : PortNo) (frame : List Word) (s : State) : Host.Outcome State Fault Refusal :=
  if (s.port p).state.linkIsUp then
    if frameOk frame then
      match frameClass frame with
      | some .rsp => .next (s.takeFarFrame p .rsp frame).settle
      | some .ntf => .next (s.takeFarFrame p .ntf frame).settle
      | some .req | none => .next (s.modPort p (fun q => { q with bad := satInc q.bad }))
    else .next (s.modPort p (fun q => { q with bad := satInc q.bad }))
  else .next s

/-! ### Symbols received -/

/-- DOWNSTREAM_GRANT_REQ: while the link is up a GRANT for REQ replaces the credit, and the requests it allows are sent
in the same happening (R99); a GRANT of another class, or that fails its check, is ignored (R99, R125, R176). -/
def execDownstreamGrantReq (p : PortNo) (arg : SymArg) (check : SymCheck) (s : State) :
    Host.Outcome State Fault Refusal :=
  if symbolOk .grant arg check ∧ grantClass arg = some .req ∧ (s.port p).state.linkIsUp then
    .next (s.modPort p (fun q => Port.sendMany q.slot.length { q with credit := Credit.ofCount (grantCount arg) }))
  else .next s

/-- Loss of the link of port `p` (R106). -/
def State.loseLink (s : State) (p : PortNo) : State :=
  match (s.port p).state with
  | .active | .parked | .waking =>
    ((s.cutPort p .targetLost).movePort p (Port.enterFaulted .linkLost)).issuingPass
  | .draining => ((s.cutPort p .targetLost).movePort p Port.enterDisabled).issuingPass
  | .disabled | .linking | .faulted => s

/-- HELLO received on the link of port `p`: it brings a LINKING port ACTIVE with RSP grant open (R98, R100); while the
link is up it is a link loss (R106); else it is ignored (R107; log 5). -/
def State.helloFromTarget (s : State) (p : PortNo) : Host.Outcome State Fault Refusal :=
  match (s.port p).state with
  | .linking => .next (s.movePort p (fun q => q.enterActive.put (grantSymbol .rsp 255#8))).issuingPass.settle
  | .active | .parked | .waking | .draining => .next (s.loseLink p).settle
  | .disabled | .faulted => .next s

/-- PORT_HELLO_RECEIVED (R98). A symbol that fails its check is ignored (R125). -/
def execPortHelloReceived (p : PortNo) (arg : SymArg) (check : SymCheck) (s : State) :
    Host.Outcome State Fault Refusal :=
  if symbolOk .hello arg check then s.helloFromTarget p else .next s

/-- DOWNSTREAM_LINK_LOSS (R106); it has no effect while the link is not up. A symbol that fails its check is ignored
(R125). -/
def execDownstreamLinkLoss (p : PortNo) (cause : LossCause) (s : State) : Host.Outcome State Fault Refusal :=
  match cause with
  | .symbolLock => if (s.port p).state.linkIsUp then .next (s.loseLink p).settle else .next s
  | .down arg check =>
    if symbolOk .down arg check ∧ (s.port p).state.linkIsUp then .next (s.loseLink p).settle else .next s
  | .hello arg check => if symbolOk .hello arg check then s.helloFromTarget p else .next s

/-- The symbol type of a READY or WAKE. -/
def wakeSymType : WakeSymbol → SymType
  | .ready => .ready
  | .wake => .wake

/-- READY_OR_WAKE_RECEIVED: a WAKING or PARKED port goes to ACTIVE and the issuing pass follows; in every other state
the symbol is ignored (R98, R103, R105, R107). -/
def execReadyOrWakeReceived (p : PortNo) (sym : WakeSymbol) (arg : SymArg) (check : SymCheck) (s : State) :
    Host.Outcome State Fault Refusal :=
  if symbolOk (wakeSymType sym) arg check then
    match (s.port p).state with
    | .parked | .waking => .next (s.movePort p Port.enterActive).issuingPass.settle
    | .disabled | .linking | .active | .draining | .faulted => .next s
  else .next s

/-! ### Sends and timers -/

/-- PORT_SEND: the head of the send slot is sent when the REQ credit allows (R99). -/
def execPortSend (p : PortNo) (s : State) : Host.Outcome State Fault Refusal :=
  .next (s.modPort p Port.sendHead)

/-- PORT_HELLO_TIMER_EXPIRY: HELLO again, the interval restarted (R98). -/
def execPortHelloTimerExpiry (p : PortNo) (s : State) : Host.Outcome State Fault Refusal :=
  if (s.port p).state = .linking ∧ (s.port p).helloTimer = some 0 then
    .next (s.modPort p (fun q =>
      { q.put (helloSymbol s.up.segId) with helloTimer := some Config.helloInterval }))
  else .next s

/-- LINK_TIMER_EXPIRY: FAULTED with reason LINK-TIMEOUT (R98). -/
def execLinkTimerExpiry (p : PortNo) (s : State) : Host.Outcome State Fault Refusal :=
  if (s.port p).state = .linking ∧ (s.port p).linkTimer = some 0 then
    .next (s.movePort p (Port.enterFaulted .linkTimeout)).settle
  else .next s

/-- IDLE_TIMER_EXPIRY: PARK sent, credit 0, PARKED; the timer runs only while the port is idle (R103). -/
def execIdleTimerExpiry (p : PortNo) (s : State) : Host.Outcome State Fault Refusal :=
  if (s.port p).idleTimer = some 0 ∧ s.idleHolds p then .next (s.modPort p Port.enterParked).settle
  else .next s

/-- WAKE_TIMER_EXPIRY: held requests answered TARGET-LOST, FAULTED with reason WAKE-TIMEOUT (R87, R105). -/
def execWakeTimerExpiry (p : PortNo) (s : State) : Host.Outcome State Fault Refusal :=
  if (s.port p).state = .waking ∧ (s.port p).wakeTimer = some 0 then
    .next ((s.answerHold p .targetLost).movePort p (Port.enterFaulted .wakeTimeout)).settle
  else .next s

/-- An entry whose timer ran out becomes EXPIRED for a fresh quarantine (R83). -/
def State.expireEntry (s : State) (n : EntryNo) : State :=
  s.modTt (fun t => { t with entries := t.entries.modify n (fun e =>
    { e with state := .expired, timer := (s.port e.port).timeoutTicks }) })

/-- ENTRY_TIMEOUT: TIMEOUT answered, EXPIRED, an unsent request withdrawn, TIMEOUT event (R83). -/
def execEntryTimeout (n : EntryNo) (s : State) : Host.Outcome State Fault Refusal :=
  let e := s.entry n
  if e.state = .opened ∧ e.timer = 0 then
    .next ((((s.answer e.pair .timeout).expireEntry n).withdraw e.port n).handEvent .timeout (.port e.port)
      (some e.pair) (countAt 5 n.val 0)).settle
  else .next s

/-- QUARANTINE_END: the entry becomes FREE, the issuing pass follows, and a drain may complete (R84). -/
def execQuarantineEnd (n : EntryNo) (s : State) : Host.Outcome State Fault Refusal :=
  let e := s.entry n
  if e.state = .expired ∧ e.timer = 0 then
    .next ((s.freeEntry n).issuingPass.finishDrain e.port).settle
  else .next s

end Sys2Proof.Machine
end

