-- ==== Sys2Proof/Machine/Banks.lean ====
section
/-! DEFINITION. Bank images as words, validation, and DA's bank operations (R54 to R66, 11.3). -/
namespace Sys2Proof.Machine

/-! ### Words of an image (11.3) -/

/-- Word `k` of a term. -/
def Term.word (t : Term) (k : Nat) : Word :=
  match k with
  | 0 => flagAt t.valid 31 ||| flagAt (t.polarity = .inhibit) 30 ||| fieldAt t.select 24
      ||| flagAt t.windowPresent 23 ||| fieldAt t.window 16 ||| flagAt t.capturePresent 15
      ||| fieldAt t.cell 8 ||| fieldAt t.opcodes 0
  | 1 => t.value
  | 2 => t.mask
  | 3 => fieldAt t.sources 0 ||| fieldAt t.needFull 16 ||| fieldAt t.needEmpty 24
  | _ => 0#32

/-- A term with word `k` written: every field exactly as written (R55, R177). -/
def Term.setWord (t : Term) (k : Nat) (v : Word) : Term :=
  match k with
  | 0 => { t with valid := v.getLsbD 31, polarity := if v.getLsbD 30 then .inhibit else .assert,
                  select := v.extractLsb' 24 3, windowPresent := v.getLsbD 23, window := v.extractLsb' 16 4,
                  capturePresent := v.getLsbD 15, cell := v.extractLsb' 8 3, opcodes := v.extractLsb' 0 3 }
  | 1 => { t with value := v }
  | 2 => { t with mask := v }
  | 3 => { t with sources := v.extractLsb' 0 16, needFull := v.extractLsb' 16 8, needEmpty := v.extractLsb' 24 8 }
  | _ => t

/-- Word `k` of a window. -/
def Window.word (w : Window) (k : Nat) : Word :=
  match k with
  | 0 => flagAt w.valid 31 ||| flagAt w.readAllowed 30 ||| flagAt w.writeAllowed 29 ||| fieldAt w.exponent 0
  | 1 => w.base
  | 2 => w.translated
  | _ => 0#32

/-- A window with word `k` written. -/
def Window.setWord (w : Window) (k : Nat) (v : Word) : Window :=
  match k with
  | 0 => { w with valid := v.getLsbD 31, readAllowed := v.getLsbD 30, writeAllowed := v.getLsbD 29,
                  exponent := v.extractLsb' 0 5 }
  | 1 => { w with base := v }
  | 2 => { w with translated := v }
  | _ => w

/-- The word at an offset from the start of an image's regions: terms from 0, windows from 200h, the header at
240h and 241h (R55, 11.3). -/
def Image.word (im : Image) (o : Nat) : Word :=
  if o < 0x200 then (im.terms.get (Fin.ofNat 64 (o / 8))).word (o % 8)
  else if o < 0x240 then (im.windows.get (Fin.ofNat 16 ((o - 0x200) / 4))).word ((o - 0x200) % 4)
  else if o = 0x240 then fieldAt im.defaultSelect 0
  else if o = 0x241 then fieldAt im.label 0
  else 0#32

/-- An image with the word at an offset written (R55). -/
def Image.setWord (im : Image) (o : Nat) (v : Word) : Image :=
  if o < 0x200 then { im with terms := im.terms.modify (Fin.ofNat 64 (o / 8)) (fun t => t.setWord (o % 8) v) }
  else if o < 0x240 then
    { im with windows := im.windows.modify (Fin.ofNat 16 ((o - 0x200) / 4)) (fun w => w.setWord ((o - 0x200) % 4) v) }
  else if o = 0x240 then { im with defaultSelect := v.extractLsb' 0 3 }
  else if o = 0x241 then { im with label := v.extractLsb' 0 16 }
  else im

/-! ### Validation (R58) -/

/-- Reasons of a refused commit, in the order of their codes (R58, 11.4). -/
inductive Reason where
  | defaultSelect | select | opcodes | windowInvalid | windowNotAllowed | cellBoth | size | align | range | rights
  deriving DecidableEq, Repr

/-- Reason codes 1–10 (11.4). -/
def Reason.code : Reason → BitVec 4
  | .defaultSelect => 1#4
  | .select => 2#4
  | .opcodes => 3#4
  | .windowInvalid => 4#4
  | .windowNotAllowed => 5#4
  | .cellBoth => 6#4
  | .size => 7#4
  | .align => 8#4
  | .range => 9#4
  | .rights => 10#4

/-- The failing item of a refused commit (R59). -/
inductive Failure where
  | header (why : Reason)
  | term (n : TermNo) (why : Reason)
  | window (n : WindowNo) (why : Reason)
  deriving DecidableEq, Repr

/-- The last detail of INVALID-IMAGE: reason 3:0, index 21:16, item 25:24; a header has no index (11.4; log 19). -/
def Failure.detail : Failure → Word
  | .header why => fieldAt why.code 0 ||| fieldAt 1#2 24
  | .term n why => fieldAt why.code 0 ||| countAt 6 n.val 16 ||| fieldAt 2#2 24
  | .window n why => fieldAt why.code 0 ||| countAt 6 n.val 16 ||| fieldAt 3#2 24

/-- A select code names one of the six selects. -/
def selectDefined (c : BitVec 3) : Bool := (Select.ofCode c).isSome

/-- A select code names a port. -/
def selectIsPort (c : BitVec 3) : Bool := c.toNat < 4

/-- The first check a valid term fails, in the order of R58. -/
def Image.termFault (im : Image) (t : Term) : Option Reason :=
  if !(selectDefined t.select) then some .select
  else if t.opcodes = 0#3 then some .opcodes
  else if t.windowPresent && !((im.windows.get t.window.toFin).valid) then some .windowInvalid
  else if t.windowPresent && !(t.polarity = .assert && selectIsPort t.select) then some .windowNotAllowed
  else if t.needFull &&& t.needEmpty ≠ 0#8 then some .cellBoth
  else none

/-- The first property a valid window fails, in the order of R30. -/
def Window.fault (w : Window) : Option Reason :=
  let k := w.exponent.toNat
  if k < 4 || 28 < k then some .size
  else if w.base.toNat % 2 ^ k ≠ 0 then some .align
  else if 2 ^ 32 < w.translated.toNat + 2 ^ k then some .range
  else if !(w.readAllowed || w.writeAllowed) then some .rights
  else none

/-- The failure of term `n`, if it is valid and fails a check. -/
def Image.termFailure (im : Image) (n : TermNo) : Option Failure :=
  if (im.terms.get n).valid then (im.termFault (im.terms.get n)).map (Failure.term n) else none

/-- The failure of window `n`, if it is valid and fails a property. -/
def Image.windowFailure (im : Image) (n : WindowNo) : Option Failure :=
  if (im.windows.get n).valid then (im.windows.get n).fault.map (Failure.window n) else none

/-- Validation: the header, then terms 0–63, then windows 0–15; the first failing item (R58). -/
def Image.failure (im : Image) : Option Failure :=
  if !(selectDefined im.defaultSelect) then some (.header .defaultSelect)
  else
    match (List.finRange 64).findSome? im.termFailure with
    | some f => some f
    | none => (List.finRange 16).findSome? im.windowFailure

/-! ### Bank operations at DA -/

/-- Hit counters at zero (R24). -/
def zeroHits : Table Word 64 := Table.replicate 64 0#32

/-- The swap of a COMMIT that passes validation (R60). -/
def Da.swap (d : Da) : Da :=
  { d with active := d.staging, staging := d.active, generation := d.generation + 1, hits := zeroHits }

/-- CLEAR-ALL at DA (R66). -/
def Da.clearAll (d : Da) : Da :=
  { d with active := Image.boot, staging := Image.empty, lock := false, generation := 0#16, hits := zeroHits,
           cells := d.cells.map Cell.emptied }

/-- CAPTURE-CLEAR of the cells of a set (R50). -/
def Da.clearCells (d : Da) (cells : BitVec 8) : Da :=
  { d with cells := d.cells.imap (fun c x => if cells.getLsbD c.val then x.emptied else x) }

/-- The COMMIT record: generation and label of the active image (R61, 11.5). -/
def State.commitEvent (s : State) (pair : Pair) : State :=
  s.handEvent .commit .nowhere (some pair) (fieldAt s.da.generation 0 ||| fieldAt s.da.active.label 16)

end Sys2Proof.Machine
end

