-- ==== Sys2Proof/Machine/Operands.lean ====
section
/-! DEFINITION. The operand forms of a management request: its span in the window, the value each word is written
with, the command it carries, and which row of the table serves it (R151, R153, R156; log 11). -/
namespace Sys2Proof.Machine

/-- The span lies in the management window, its end computed without wrapping (R151, check 1). -/
def Request.inWindow (r : Request) : Bool :=
  Config.windowBase ≤ r.addr.toNat && r.addr.toNat + r.length.toNat ≤ 2 ^ 32

/-- The offset of the first word of the span: bits 15:0 of its address, the window being the top 65,536 words
(R151, R152). -/
def Request.offset (r : Request) : Nat := r.addr.toNat % 0x10000

/-- The offsets of the words of the span, in address order. -/
def Request.offsets (r : Request) : List Nat := (List.range r.length.toNat).map (fun i => r.offset + i)

/-- The offset of the command word (11.4). -/
def commandOffset : Nat := 0x41
/-- The offset of the event overflow word (11.4). -/
def overflowOffset : Nat := 0x0A

/-- The span includes the command word (R151, check 2). -/
def Request.spansCommand (r : Request) : Bool := r.offsets.contains commandOffset

/-- A word of a table region: staging terms, windows and header, or the active readback (R152). -/
def isTableWord (off : Nat) : Bool := (0x1000 ≤ off && off ≤ 0x1241) || (0x2000 ≤ off && off ≤ 0x2241)

/-- A word of the staging regions (R55). -/
def isStagingWord (off : Nat) : Bool := 0x1000 ≤ off && off ≤ 0x1241

/-- The span includes a word of a table region (R151, check 3). -/
def Request.spansTable (r : Request) : Bool := r.offsets.any isTableWord

/-- Mask word `i` of a MODIFY (R121). -/
def Request.maskWord (r : Request) (i : Nat) : Word := r.payload.getD i 0#32

/-- Value word `i`: of a WRITE payload word `i`, of a MODIFY payload word length + `i` (R121). -/
def Request.valueWord (r : Request) (i : Nat) : Word :=
  match r.opcode with
  | .modify => r.payload.getD (r.length.toNat + i) 0#32
  | .read | .write => r.payload.getD i 0#32

/-- The value word `i` of the span is written with, from its old value (R121, R153). -/
def Request.written (r : Request) (i : Nat) (old : Word) : Word :=
  match r.opcode with
  | .modify => (old &&& ~~~ (r.maskWord i)) ||| (r.valueWord i &&& r.maskWord i)
  | .read | .write => r.valueWord i

/-- The value written to an RW1C field or to the command word: for a MODIFY, value AND mask (R153). -/
def Request.writtenMasked (r : Request) (i : Nat) : Word :=
  match r.opcode with
  | .modify => r.valueWord i &&& r.maskWord i
  | .read | .write => r.valueWord i

/-- The whole 32-bit value written to the command word, of a WRITE or MODIFY of length 1 to it (R156, R178). -/
def Request.commandCode (r : Request) : Option Word :=
  if r.inWindow && r.opcode ≠ .read && r.length = 1#7 && r.offset = commandOffset then
    some (r.writtenMasked 0)
  else none

/-- The ten commands (11.4). -/
inductive Cmd where
  | commit | stagingCopy | lock | clearAll | portEnable | portDisable | portRestart | captureClear
  | counterClear | segmentReset
  deriving DecidableEq, Repr

/-- Command codes (11.4). -/
def Cmd.code : Cmd → BitVec 8
  | .commit => 0x01#8
  | .stagingCopy => 0x02#8
  | .lock => 0x03#8
  | .clearAll => 0x04#8
  | .portEnable => 0x10#8
  | .portDisable => 0x11#8
  | .portRestart => 0x12#8
  | .captureClear => 0x20#8
  | .counterClear => 0x21#8
  | .segmentReset => 0x30#8

/-- The ten commands in code order. -/
def Cmd.all : List Cmd :=
  [.commit, .stagingCopy, .lock, .clearAll, .portEnable, .portDisable, .portRestart, .captureClear,
   .counterClear, .segmentReset]

/-- The command a whole written word names (R178). -/
def Cmd.ofWord (w : Word) : Option Cmd := Cmd.all.find? (fun c => c.code.setWidth 32 = w)

/-- A port command is refused when the whole argument word is not 0–3 (R157, R178). -/
def Cmd.argumentOk (c : Cmd) (arg : Word) : Bool :=
  match c with
  | .portEnable | .portDisable | .portRestart => arg.toNat < 4
  | .commit | .stagingCopy | .lock | .clearAll | .captureClear | .counterClear | .segmentReset => true

/-- The port an argument of 0–3 names. -/
def argPort (arg : Word) : PortNo := Fin.ofNat 4 arg.toNat

/-- A WRITE or MODIFY that carries no command: it is served as an access (R151). -/
def Request.isAccess (r : Request) : Bool := r.opcode ≠ .read && r.commandCode.isNone

/-- A write that passes checks 1 and 2 and includes a word that satisfies `test` (R151). -/
def Request.writesWord (r : Request) (test : Nat → Bool) : Bool :=
  r.isAccess && r.inWindow && !(r.spansCommand) && r.offsets.any test

/-- STAGING_WRITE: the span includes a word of the staging regions (R55). -/
def Request.isStagingWrite (r : Request) : Bool := r.writesWord isStagingWord

/-- A configuration word of a port block, the enable word apart (R96, 11.4). -/
def isPortConfigWord (off : Nat) : Bool :=
  0x100 ≤ off && off < 0x140 && 1 ≤ off % 16 && off % 16 ≤ 6

/-- PORT_CONFIGURATION_WRITE: the span includes a configuration word of a port block (R96). -/
def Request.isPortConfigWrite (r : Request) : Bool := r.writesWord isPortConfigWord

/-- The enable word of a port block (R97). -/
def isEnableWord (off : Nat) : Bool := 0x100 ≤ off && off < 0x140 && off % 16 = 0

/-- EVENT_OVERFLOW_CLEAR: the request writes 1 to the overflow field (R171). -/
def Request.isOverflowClear (r : Request) : Bool :=
  r.writesWord (fun off => off = overflowOffset && (r.writtenMasked (off - r.offset)).getLsbD 0)

/-- The enable value the word of port `p` reads: 0 while DISABLED, else 1 (R97). -/
def Port.enableWord (q : Port) : Word := if q.state = .disabled then 0#32 else 1#32

/-- The request writes the value `v` to an enable word (R97). -/
def State.writesEnable (s : State) (r : Request) (v : Bool) : Bool :=
  r.writesWord (fun off =>
    isEnableWord off &&
      (r.written (off - r.offset) (s.port (Fin.ofNat 4 ((off - 0x100) / 16))).enableWord).getLsbD 0 = v)

/-- MANAGEMENT_WRITE: an access that no other row's words claim (log 11). -/
def State.isPlainWrite (s : State) (r : Request) : Bool :=
  r.isAccess && !(r.isStagingWrite) && !(r.isPortConfigWrite) && !(r.isOverflowClear)
    && !(s.writesEnable r true) && !(s.writesEnable r false)

end Sys2Proof.Machine
end

