-- ==== Sys2Proof/Machine/PortCommands.lean ====
section
/-! DEFINITION. PORT-ENABLE, PORT-DISABLE and PORT-RESTART as a port and TT take them (R88, R89, R109 to R111). -/
namespace Sys2Proof.Machine

/-- DOWN sent, then DISABLED (R110). -/
def Port.shutDown (q : Port) : Port := (q.put (plainSymbol .down)).enterDisabled

/-- PORT-ENABLE of port `p` (R109): LINKING from DISABLED and FAULTED, BUSY while DRAINING, else no change. -/
def State.portEnable (s : State) (p : PortNo) : State × Status :=
  match (s.port p).state with
  | .disabled | .faulted => (s.modPort p (Port.enterLinking s.up.segId), .ok)
  | .draining => (s, .busy)
  | .linking | .active | .parked | .waking => (s, .ok)

/-- PORT-DISABLE of port `p`; it is answered OK in every state (R88, R110). -/
def State.portDisable (s : State) (p : PortNo) : State × Status :=
  match (s.port p).state with
  | .disabled | .draining => (s, .ok)
  | .linking | .parked => (s.movePort p Port.shutDown, .ok)
  | .waking => ((s.answerHold p .aborted).movePort p Port.shutDown, .ok)
  | .faulted => (s.movePort p Port.enterDisabled, .ok)
  | .active =>
    let t := s.answerHold p .aborted
    if s.tt.count p = 0 then (t.movePort p Port.shutDown, .ok) else (t.modPort p Port.enterDraining, .ok)

/-- PORT-RESTART of port `p`: REFUSED while DISABLED, else everything of the port is aborted, DOWN is sent, LINKING is
entered and the issuing pass follows for the other ports (R89, R111). -/
def State.portRestart (s : State) (p : PortNo) : State × Status :=
  match (s.port p).state with
  | .disabled => (s, .refused)
  | .linking | .active | .parked | .waking | .draining | .faulted =>
    (((s.cutPort p .aborted).modPort p
        (fun q => (q.put (plainSymbol .down)).enterLinking s.up.segId)).issuingPass, .ok)

end Sys2Proof.Machine
end

