-- ==== Sys2Proof/Machine/Map.lean ====
section
/-! DEFINITION. The management map: what each word reads and what a write of it does (R152 to R154, R177, 11.4). -/
namespace Sys2Proof.Machine

/-! ### Reads -/

/-- Identity region (11.4). -/
def State.readIdentity (s : State) (off : Nat) : Word :=
  match off with
  | 0x00 => Config.partCode
  | 0x01 => Config.revision
  | 0x02 => fieldAt s.up.segId 0
  | 0x03 => fieldAt s.da.rcvSrc 0 ||| flagAt s.da.rcvEn 8
  | 0x04 => flagAt s.da.retain 0
  | 0x05 => flagAt s.da.lock 0
  | 0x06 => fieldAt s.da.generation 0
  | 0x07 => fieldAt s.da.active.label 0
  | 0x08 => fieldAt s.tb.divider 0
  | 0x09 => fieldAt s.ev.mask 0
  | 0x0A => flagAt s.ev.overflow 0
  | _ => 0#32

/-- Command region; the command word reads 0 (11.4). -/
def State.readCommand (s : State) (off : Nat) : Word :=
  match off with
  | 0x40 => s.mu.arg
  | 0x42 => fieldAt s.mu.last.command 0 ||| fieldAt s.mu.last.status.code 8
  | 0x43 => s.mu.last.detail
  | _ => 0#32

/-- Word `k` of the block of port `p` (R116, 11.4). -/
def State.readPort (s : State) (p : PortNo) (k : Nat) : Word :=
  let q := s.port p
  match k with
  | 0 => q.enableWord
  | 1 => fieldAt q.limit 0
  | 2 => fieldAt q.respTimeout 0
  | 3 => fieldAt q.idleInterval 0
  | 4 => fieldAt q.wakeTimeout 0
  | 5 => fieldAt q.linkTimeout 0
  | 6 => flagAt q.notify 0
  | 7 => fieldAt q.state.code 0 ||| fieldAt q.reason.code 4
  | 8 => countAt 5 (s.tt.count p) 0 ||| countAt 3 (s.hold p).length 8 ||| countAt 5 q.slot.length 16
  | 9 => fieldAt q.credit.code 0 ||| flagAt q.ntfBuf.isSome 8
  | 10 => q.bad
  | 11 => q.stray
  | 12 => q.late
  | 13 => q.discarded
  | _ => 0#32

/-- Word `k` of a capture cell (R52, 11.4). -/
def Cell.word (c : Cell) (k : Nat) : Word :=
  match k with
  | 0 => flagAt (c.mode = .track) 0
  | 1 => flagAt c.hold 0
  | 2 => flagAt c.full 0 ||| fieldAt c.loads 16
  | 3 => fieldAt c.record.pair.src 0 ||| fieldAt c.record.pair.tag 4 ||| fieldAt c.record.opcode.code 10
      ||| fieldAt c.record.length 12 ||| fieldAt c.record.term 20
  | 4 => c.record.addr
  | 5 => fieldAt c.record.outcome.code 0
  | 6 => c.record.stamp
  | 7 => fieldAt c.record.generation 0
  | _ => 0#32

/-- Counter region: decision counters, upstream counters, egress depth, reservation count, hit counters (11.4). -/
def State.readCounter (s : State) (off : Nat) : Word :=
  if off < 0x40A then s.ev.decisions.get (Fin.ofNat 10 (off - 0x400))
  else if off = 0x410 then s.ev.upBad
  else if off = 0x411 then s.ev.upBadRequest
  else if off = 0x412 then s.ev.upTagInUse
  else if off = 0x413 then s.ev.upLinkLoss
  else if off = 0x418 then countAt 6 s.up.egress.length 0
  else if off = 0x419 then countAt 6 s.up.reservations 0
  else if 0x440 ≤ off && off < 0x480 then s.da.hits.get (Fin.ofNat 64 (off - 0x440))
  else 0#32

/-- Word `k` of the snapshot of an entry (R94, 11.4). -/
def Entry.word (e : Entry) (k : Nat) : Word :=
  match k with
  | 0 => fieldAt e.state.code 0 ||| countAt 2 e.port.val 4 ||| fieldAt e.opcode.code 8
      ||| fieldAt e.pair.src 16 ||| fieldAt e.pair.tag 24
  | 1 => countAt 20 e.timer 0
  | 2 => e.stamp
  | 3 => e.addr
  | _ => 0#32

/-- What the word at an offset reads; unmapped words read 0 (R152, R153). -/
def State.readWord (s : State) (off : Nat) : Word :=
  if off < 0x40 then s.readIdentity off
  else if off < 0x48 then s.readCommand off
  else if 0x100 ≤ off && off < 0x140 then s.readPort (Fin.ofNat 4 ((off - 0x100) / 16)) (off % 16)
  else if 0x200 ≤ off && off < 0x240 then (s.da.cells.get (Fin.ofNat 8 ((off - 0x200) / 8))).word (off % 8)
  else if 0x400 ≤ off && off < 0x500 then s.readCounter off
  else if 0x800 ≤ off && off < 0x880 then (s.entry (Fin.ofNat 32 ((off - 0x800) / 4))).word (off % 4)
  else if isStagingWord off then s.da.staging.word (off - 0x1000)
  else if isTableWord off then s.da.active.word (off - 0x2000)
  else 0#32

/-! ### Writes -/

/-- A field whose written value is in range takes it, else it keeps the value it had (R154). -/
def inRange {α : Type} (ok : Bool) (new old : α) : α := if ok then new else old

/-- A write of a configuration word of a port (R96, R154). -/
def Port.writeConfig (q : Port) (k : Nat) (v : Word) : Port :=
  match k with
  | 1 =>
    let l : BitVec 5 := v.extractLsb' 0 5
    { q with limit := inRange (1 ≤ l.toNat && l.toNat ≤ 16) l q.limit }
  | 2 =>
    let t : BitVec 16 := v.extractLsb' 0 16
    { q with respTimeout := inRange (t ≠ 0#16) t q.respTimeout }
  | 3 => { q with idleInterval := v.extractLsb' 0 8 }
  | 4 =>
    let t : BitVec 8 := v.extractLsb' 0 8
    { q with wakeTimeout := inRange (t ≠ 0#8) t q.wakeTimeout }
  | 5 =>
    let t : BitVec 8 := v.extractLsb' 0 8
    { q with linkTimeout := inRange (t ≠ 0#8) t q.linkTimeout }
  | 6 => { q with notify := v.getLsbD 0 }
  | _ => q

/-- A write of the enable word: PORT-ENABLE for 1, PORT-DISABLE for 0 (R97). -/
def State.writeEnable (s : State) (p : PortNo) (v : Word) : State × Status :=
  if v.getLsbD 0 then s.portEnable p else s.portDisable p

/-- A write of the mode or hold word of a cell (R49). -/
def Cell.writeConfig (c : Cell) (k : Nat) (v : Word) : Cell :=
  match k with
  | 0 => { c with mode := if v.getLsbD 0 then .track else .latch }
  | 1 => { c with hold := v.getLsbD 0 }
  | _ => c

/-- A write of the divider; 0 keeps everything as it stood. A tick under way keeps the length it began with, and one that
has just begun, no period of it past, is governed by the write from its start (R154, R173; log 17). -/
def Timebase.writeDivider (t : Timebase) (v : Word) : Timebase :=
  let d : BitVec 8 := v.extractLsb' 0 8
  inRange (d ≠ 0#8) { t with divider := d, tickLength := if t.progress = 0 then d else t.tickLength } t

/-- A write of an identity word (R67, R130, R167, R171, R173; the other words are RO). -/
def State.writeIdentity (s : State) (off : Nat) (v : Word) : State :=
  match off with
  | 0x02 => s.modUp (fun u => { u with segId := v.extractLsb' 0 4 })
  | 0x04 => s.modDa (fun d => { d with retain := v.getLsbD 0 })
  | 0x08 => s.modTb (fun t => t.writeDivider v)
  | 0x09 => s.modEv (fun e => { e with mask := v.extractLsb' 0 8 })
  | 0x0A => s.modEv (fun e => { e with overflow := e.overflow && !(v.getLsbD 0) })
  | _ => s

/-- A write of the word at an offset outside the command word: RO and unmapped words ignore it (R153). The status is
OK, or what a write of an enable word returns (R154). -/
def State.writeWord (s : State) (off : Nat) (v : Word) : State × Status :=
  if off < 0x40 then (s.writeIdentity off v, .ok)
  else if off = 0x40 then (s.modMu (fun m => { m with arg := v }), .ok)
  else if 0x100 ≤ off && off < 0x140 then
    let p : PortNo := Fin.ofNat 4 ((off - 0x100) / 16)
    if off % 16 = 0 then s.writeEnable p v else (s.modPort p (fun q => q.writeConfig (off % 16) v), .ok)
  else if 0x200 ≤ off && off < 0x240 then
    (s.modDa (fun d =>
      { d with cells := d.cells.modify (Fin.ofNat 8 ((off - 0x200) / 8)) (fun c => c.writeConfig (off % 8) v) }), .ok)
  else if isStagingWord off then (s.modDa (fun d => { d with staging := d.staging.setWord (off - 0x1000) v }), .ok)
  else (s, .ok)

/-! ### A whole request -/

/-- Word `i` of a WRITE or MODIFY, taken in turn; an RW1C word takes its value from the mask alone in a MODIFY
(R153). A status other than OK is kept (R154). -/
def State.accessWord (r : Request) (acc : State × Status) (i : Nat) : State × Status :=
  let off := r.offset + i
  let v := if off = overflowOffset then r.writtenMasked i else r.written i (acc.1.readWord off)
  let res := acc.1.writeWord off v
  (res.1, if res.2 = .ok then acc.2 else res.2)

/-- Every word of the span, in address order (R153). -/
def State.accessWords (s : State) (r : Request) : State × Status :=
  (List.range r.length.toNat).foldl (State.accessWord r) (s, .ok)

/-- Some port's outstanding limit is higher in the second state (R77, R86). -/
def limitRaised (s t : State) : Bool :=
  (List.finRange 4).any (fun p => (s.port p).limit.toNat < (t.port p).limit.toNat)

/-- The access of R153; where it raises a limit the issuing pass follows once all its words are written
(R77; log 13). -/
def State.access (s : State) (r : Request) : State × Status :=
  let res := s.accessWords r
  (if limitRaised s res.1 then res.1.issuingPass else res.1, res.2)

/-- The words a READ returns (R153). -/
def State.readWords (s : State) (r : Request) : List Word := r.offsets.map s.readWord

/-- The words a READ answered LOCKED returns: zero for table words (R155). -/
def State.lockedWords (s : State) (r : Request) : List Word :=
  r.offsets.map (fun off => if isTableWord off then 0#32 else s.readWord off)

end Sys2Proof.Machine
end

