-- ==== Sys2Proof/Machine/Management.lean ====
section
/-! DEFINITION. The management unit: accesses, the commands of the command word, and SEGMENT-RESET
(R149 to R166). Each command of this file serves the request at the head of MU's input queue, when MU is IDLE and that
request is of the command's row (log 2, log 11). -/
namespace Sys2Proof.Machine

/-! ### Serving -/

/-- The request served leaves the queue (R151). -/
def State.popMu (s : State) : State := s.modMu (fun m => { m with queue := m.queue.tail })

/-- The last result recorded (R157). -/
def State.record (s : State) (command : BitVec 8) (status : Status) (detail : Word) : State :=
  s.modMu (fun m => { m with last := { command := command, status := status, detail := detail } })

/-- A WRITE or MODIFY that carries no command, through the checks of R151 in order: window, command word, lock,
access. -/
def State.serveWrite (s : State) (r : Request) : State :=
  if !(r.inWindow) then s.answer r.pair .refused
  else if r.spansCommand then s.answer r.pair .badRequest
  else if s.da.lock && r.spansTable then s.answer r.pair .locked
  else ((s.access r).1).answer r.pair (s.access r).2

/-- A READ through the checks of R151; LOCKED and OK carry its length in words (R151, R153, R155). -/
def State.serveRead (s : State) (r : Request) : State :=
  if !(r.inWindow) then s.answer r.pair .refused
  else if r.spansCommand && r.length ≠ 1#7 then s.answer r.pair .badRequest
  else if s.da.lock && r.spansTable then
    s.respond { pair := r.pair, status := .locked, length := r.length, payload := s.lockedWords r }
  else s.respond { pair := r.pair, status := .ok, length := r.length, payload := s.readWords r }

/-- A WRITE or MODIFY at the head is served when it is of the row `test` describes; otherwise nothing happens. -/
def State.serveWriteIf (s : State) (test : Request → Bool) : State :=
  match s.mu.head with
  | none => s
  | some r => if test r then (s.popMu.serveWrite r).settle else s

/-- What a command leaves: the state, the status returned, the detail recorded (R157). -/
structure CmdResult where
  state : State
  status : Status
  detail : Word
  deriving DecidableEq, Repr

/-- The head carries command `c`, with an argument it takes (R157). -/
def State.headCarries (s : State) (c : Cmd) (r : Request) : Bool :=
  r.commandCode = some (c.code.setWidth 32) && c.argumentOk s.mu.arg

/-- A command taken whole in the serving happening: action, record, response (R157). -/
def takeCommand (c : Cmd) (r : Request) (body : CmdResult) : State :=
  ((body.state.record c.code body.status body.detail).answer r.pair body.status).settle

/-! ### Actions of the commands -/

/-- COMMIT at DA (R57 to R61). -/
def State.commitAction (s : State) (pair : Pair) : CmdResult :=
  if s.da.lock then ⟨s, .locked, 0#32⟩
  else
    match s.da.staging.failure with
    | some f => ⟨s, .invalidImage, f.detail⟩
    | none =>
      let t := s.modDa Da.swap
      ⟨t.commitEvent pair, .ok, fieldAt t.da.generation 0⟩

/-- STAGING-COPY at DA (R62). -/
def State.stagingCopyAction (s : State) : CmdResult :=
  if s.da.lock then ⟨s, .locked, 0#32⟩
  else ⟨s.modDa (fun d => { d with staging := d.active }), .ok, 0#32⟩

/-- LOCK at DA (R63). -/
def State.lockAction (s : State) : CmdResult := ⟨s.modDa (fun d => { d with lock := true }), .ok, 0#32⟩

/-- CLEAR-ALL at DA; the detail is generation 0 (R66). -/
def State.clearAllAction (s : State) (pair : Pair) : CmdResult :=
  ⟨(s.modDa Da.clearAll).commitEvent pair, .ok, 0#32⟩

/-- The detail of a port command: the port and its state after the command (R157, 11.4). -/
def portDetail (p : PortNo) (st : PortState) : Word := countAt 2 p.val 0 ||| fieldAt st.code 8

/-- The result of a port command on port `p` (R159). -/
def portResult (p : PortNo) (res : State × Status) : CmdResult :=
  ⟨res.1, res.2, portDetail p (res.1.port p).state⟩

/-- CAPTURE-CLEAR of the low eight positions of the argument (R50, R160). -/
def State.captureClearAction (s : State) : CmdResult :=
  let cells : BitVec 8 := s.mu.arg.extractLsb' 0 8
  ⟨s.modDa (fun d => d.clearCells cells), .ok, fieldAt cells 0⟩

/-- A port's four counters cleared (R115). -/
def Port.clearCounters (q : Port) : Port := { q with bad := 0#32, stray := 0#32, late := 0#32, discarded := 0#32 }

/-- The decision and upstream counters cleared (R172). -/
def Events.clearCounters (e : Events) : Events :=
  { e with decisions := Table.replicate 10 0#32, upBad := 0#32, upBadRequest := 0#32, upTagInUse := 0#32,
           upLinkLoss := 0#32 }

/-- COUNTER-CLEAR (R160). -/
def State.counterClearAction (s : State) : CmdResult :=
  ⟨((s.modDa (fun d => { d with hits := zeroHits })).modEv Events.clearCounters).modPorts Port.clearCounters, .ok, 0#32⟩

/-! ### The servings -/

/-- MANAGEMENT_READ: MU serves a READ at the head of its queue (R151). -/
def execManagementRead (s : State) : Host.Outcome State Fault Refusal :=
  match s.mu.head with
  | none => .next s
  | some r => if r.opcode = .read then .next (s.popMu.serveRead r).settle else .next s

/-- MANAGEMENT_WRITE: an access no other row claims, the refused ones among them (R151, R153). -/
def execManagementWrite (s : State) : Host.Outcome State Fault Refusal := .next (s.serveWriteIf s.isPlainWrite)

/-- STAGING_WRITE: stored as written, or refused LOCKED (R55, R64). -/
def execStagingWrite (s : State) : Host.Outcome State Fault Refusal := .next (s.serveWriteIf Request.isStagingWrite)

/-- PORT_CONFIGURATION_WRITE (R96, R154). -/
def execPortConfigurationWrite (s : State) : Host.Outcome State Fault Refusal :=
  .next (s.serveWriteIf Request.isPortConfigWrite)

/-- EVENT_OVERFLOW_CLEAR (R171). -/
def execEventOverflowClear (s : State) : Host.Outcome State Fault Refusal :=
  .next (s.serveWriteIf Request.isOverflowClear)

/-- COMMIT (R57, R158). -/
def execCommit (s : State) : Host.Outcome State Fault Refusal :=
  match s.mu.head with
  | none => .next s
  | some r =>
    if s.headCarries .commit r then .next (takeCommand .commit r (s.popMu.commitAction r.pair)) else .next s

/-- STAGING-COPY (R62, R158). -/
def execStagingCopy (s : State) : Host.Outcome State Fault Refusal :=
  match s.mu.head with
  | none => .next s
  | some r =>
    if s.headCarries .stagingCopy r then .next (takeCommand .stagingCopy r s.popMu.stagingCopyAction) else .next s

/-- LOCK (R63, R158). -/
def execLock (s : State) : Host.Outcome State Fault Refusal :=
  match s.mu.head with
  | none => .next s
  | some r => if s.headCarries .lock r then .next (takeCommand .lock r s.popMu.lockAction) else .next s

/-- CLEAR-ALL (R66, R158). -/
def execClearAll (s : State) : Host.Outcome State Fault Refusal :=
  match s.mu.head with
  | none => .next s
  | some r =>
    if s.headCarries .clearAll r then .next (takeCommand .clearAll r (s.popMu.clearAllAction r.pair)) else .next s

/-- PORT-ENABLE: the command, or a write of 1 to an enable word (R97, R109, R159). -/
def execPortEnable (s : State) : Host.Outcome State Fault Refusal :=
  match s.mu.head with
  | none => .next s
  | some r =>
    if s.headCarries .portEnable r then
      .next (takeCommand .portEnable r (portResult (argPort s.mu.arg) (s.popMu.portEnable (argPort s.mu.arg))))
    else .next (s.serveWriteIf (fun r => s.writesEnable r true))

/-- PORT-DISABLE: the command, or a write of 0 to an enable word (R97, R110, R159). -/
def execPortDisable (s : State) : Host.Outcome State Fault Refusal :=
  match s.mu.head with
  | none => .next s
  | some r =>
    if s.headCarries .portDisable r then
      .next (takeCommand .portDisable r (portResult (argPort s.mu.arg) (s.popMu.portDisable (argPort s.mu.arg))))
    else .next (s.serveWriteIf (fun r => s.writesEnable r false))

/-- PORT-RESTART (R111, R159). -/
def execPortRestart (s : State) : Host.Outcome State Fault Refusal :=
  match s.mu.head with
  | none => .next s
  | some r =>
    if s.headCarries .portRestart r then
      .next (takeCommand .portRestart r (portResult (argPort s.mu.arg) (s.popMu.portRestart (argPort s.mu.arg))))
    else .next s

/-- CAPTURE-CLEAR (R50, R160). -/
def execCaptureClear (s : State) : Host.Outcome State Fault Refusal :=
  match s.mu.head with
  | none => .next s
  | some r =>
    if s.headCarries .captureClear r then .next (takeCommand .captureClear r s.popMu.captureClearAction) else .next s

/-- COUNTER-CLEAR (R160). -/
def execCounterClear (s : State) : Host.Outcome State Fault Refusal :=
  match s.mu.head with
  | none => .next s
  | some r =>
    if s.headCarries .counterClear r then .next (takeCommand .counterClear r s.popMu.counterClearAction) else .next s

/-- What is refused and recorded for a written code: command none and the code for one that names no command, the command
and its argument for a port command that names no port; `none` for a command that is taken (R157, R178). -/
def refusedCommand (code arg : Word) : Option (BitVec 8 × Word) :=
  match Cmd.ofWord code with
  | none => some (0#8, code)
  | some c => if c.argumentOk arg then none else some (c.code, arg)

/-- UNKNOWN_COMMAND: answered REFUSED and recorded (R157, R178). -/
def execUnknownCommand (s : State) : Host.Outcome State Fault Refusal :=
  match s.mu.head with
  | none => .next s
  | some r =>
    match r.commandCode with
    | none => .next s
    | some code =>
      match refusedCommand code s.mu.arg with
      | none => .next s
      | some rec => .next (((s.popMu.record rec.1 .refused rec.2).answer r.pair .refused).settle)

/-! ### SEGMENT-RESET -/

/-- The ingress pause set; a counted credit above 0 is withdrawn by GRANT for REQ with count 0 while the link is UP
(R146). -/
def Up.setPause (u : Up) : Up :=
  if u.link = .up ∧ 0 < u.reqCredit then { u.grantReq 0 with pause := true } else { u with pause := true }

/-- The start of a SEGMENT-RESET carried by `pair`, its request already off the queue (R161). -/
def State.startReset (s : State) (pair : Pair) : State :=
  ((s.modUp Up.setPause).answerAll (s.mu.queue.map (fun q => q.pair)) .aborted).modMu
    (fun m => { m with cmd := .executing .traffic pair, aborts := m.queue.length, queue := [] })

/-- SEGMENT_RESET: the command starts in its serving happening; its response waits for completion (R161). -/
def execSegmentReset (s : State) : Host.Outcome State Fault Refusal :=
  match s.mu.head with
  | none => .next s
  | some r => if s.headCarries .segmentReset r then .next (s.popMu.startReset r.pair).settle else .next s

/-- The requests the traffic phase answers: OPEN entries in ascending order, then the hold queues of ports 0 to 3
(R91). -/
def State.trafficPairs (s : State) : List Pair :=
  s.tt.openPairs (fun _ => true)
    ++ ((List.finRange 4).flatMap s.hold).map (fun r => r.pair)

/-- A port in the traffic phase: unchanged if DISABLED, else its slot is emptied, DOWN is sent and it enters LINKING
(R112). -/
def Port.trafficReset (segId : BitVec 4) (q : Port) : Port :=
  match q.state with
  | .disabled => q
  | .linking | .active | .parked | .waking | .draining | .faulted =>
    ({ q with slot := [] }.put (plainSymbol .down)).enterLinking segId

/-- The traffic phase at TT and the ports (R91, R112, R162). -/
def State.trafficReset (s : State) : State :=
  (((s.answerAll s.trafficPairs .aborted).modTt (fun _ => Tt.powerOn)).modPorts (Port.trafficReset s.up.segId)).modMu
    (fun m => { m with aborts := m.aborts + s.trafficPairs.length })

/-- TRAFFIC_PHASE of a SEGMENT-RESET that has started (R162). -/
def execTrafficPhase (s : State) : Host.Outcome State Fault Refusal :=
  match s.mu.cmd with
  | .executing .traffic w =>
    .next (s.trafficReset.modMu (fun m => { m with cmd := .executing .capture w })).settle
  | .executing .capture _ | .executing .completion _ | .idle => .next s

/-- CAPTURE_PHASE: every cell emptied, its mode and hold flag kept (R53, R162). -/
def execCapturePhase (s : State) : Host.Outcome State Fault Refusal :=
  match s.mu.cmd with
  | .executing .capture w =>
    .next ((s.modDa (fun d => { d with cells := d.cells.map Cell.emptied })).modMu
      (fun m => { m with cmd := .executing .completion w }))
  | .executing .traffic _ | .executing .completion _ | .idle => .next s

/-- The completion: response, last result, pause cleared, IDLE (R163). -/
def State.completeReset (s : State) (pair : Pair) : State :=
  (((s.answer pair .ok).record Cmd.segmentReset.code .ok (countAt 6 s.mu.aborts 0)).modUp
    (fun u => { u with pause := false })).modMu (fun m => { m with cmd := .idle, aborts := 0 })

/-- SEGMENT_RESET_COMPLETION (R163). -/
def execSegmentResetCompletion (s : State) : Host.Outcome State Fault Refusal :=
  match s.mu.cmd with
  | .executing .completion w => .next (s.completeReset w).settle
  | .executing .traffic _ | .executing .capture _ | .idle => .next s

end Sys2Proof.Machine
end

