-- ==== Sys2Proof/Machine/Resets.lean ====
section
/-! DEFINITION. Power-on reset, pin reset, the period of REFCLK and the tick of the timebase (R67 to R69, R117, R148,
R173 to R175). -/
namespace Sys2Proof.Machine

/-- POR: every block at its power-on values for the straps sampled. The commands that wait and what has been put on the
links before are kept (R69; log 1, log 7). -/
def execPor (straps : Straps) (s : State) : Host.Outcome State Fault Refusal :=
  let t := State.powerOn straps
  .next { t with
    up := { t.up with sent := s.up.sent ++ t.up.sent }
    dp := t.dp.imap (fun p q => { q with sent := (s.port p).sent })
    pending := s.pending }

/-- DA at a pin reset: banks by RETAIN and the lock, cell configuration by RETAIN alone, straps resampled (R27, R53,
R68, R69). -/
def Da.pinReset (d : Da) (straps : Straps) : Da :=
  let retained := d.retain || d.lock
  { intake := []
    active := if retained then d.active else Image.boot
    staging := if d.lock then d.staging else Image.empty
    generation := if retained then d.generation else 0#16
    lock := d.lock
    retain := d.retain
    hits := Table.replicate 64 0#32
    cells := if d.retain then d.cells.map Cell.emptied else Table.replicate 8 Cell.powerOn
    rcvSrc := straps.rcvSrc
    rcvEn := straps.rcvEn }

/-- A port at a pin reset: with RETAIN its configuration is kept, and it enters LINKING unless it was DISABLED; without
RETAIN everything returns to its default (R97, R117). -/
def Port.pinReset (retain : Bool) (segId : BitVec 4) (q : Port) : Port :=
  let fresh := { Port.powerOn with sent := q.sent }
  let kept :=
    { fresh with
      limit := q.limit, respTimeout := q.respTimeout, idleInterval := q.idleInterval,
      wakeTimeout := q.wakeTimeout, linkTimeout := q.linkTimeout, notify := q.notify }
  if retain then (if q.state = .disabled then kept else kept.enterLinking segId) else fresh

/-- EQ at a pin reset (R175). -/
def Events.pinReset (e : Events) (retain : Bool) : Events :=
  { Events.powerOn with mask := if retain then e.mask else Config.defaultMask }

/-- TB at a pin reset: the divider and the timestamp of R175. That the tick that begins has the length of the divider that
stands and no period behind it is the model's choice (log 17). -/
def Timebase.pinReset (t : Timebase) (retain : Bool) : Timebase :=
  let divider := if retain then t.divider else Config.defaultDivider
  { divider := divider, tickLength := divider, progress := 0, timestamp := 0#32 }

/-- The segment identity a pin reset leaves (R130). -/
def State.pinResetSegId (s : State) (straps : Straps) : BitVec 4 := if s.da.retain then s.up.segId else straps.segId

/-- PIN_RESET: all traffic state cleared without answers, HELLO sent as the reset ends (R68, R93, R129, R148, R166). -/
def execPinReset (straps : Straps) (s : State) : Host.Outcome State Fault Refusal :=
  let segId := s.pinResetSegId straps
  .next
    { up := { Up.powerOn segId with sent := s.up.sent ++ [helloSymbol segId] }
      da := s.da.pinReset straps
      tt := Tt.powerOn
      dp := s.dp.map (Port.pinReset s.da.retain segId)
      mu := Mu.powerOn
      ev := s.ev.pinReset s.da.retain
      tb := s.tb.pinReset s.da.retain
      pending := s.pending }

/-- A running timer one tick later; one that has run out stays at 0 until its happening is taken (R82, R173;
log 18). -/
def timerTick (t : Option Nat) : Option Nat := t.map (fun k => k - 1)

/-- An entry one tick later: a FREE entry has no timer running (R82). -/
def Entry.tick (e : Entry) : Entry := if e.state = .free then e else { e with timer := e.timer - 1 }

/-- A port one tick later (R95). -/
def Port.tick (q : Port) : Port :=
  { q with linkTimer := timerTick q.linkTimer, helloTimer := timerTick q.helloTimer,
           idleTimer := timerTick q.idleTimer, wakeTimer := timerTick q.wakeTimer }

/-- TB at the end of a tick: the timestamp increments and wraps, and the next tick has the length of the divider that
stands (R173, R174; log 17). -/
def Timebase.tick (t : Timebase) : Timebase :=
  { t with timestamp := t.timestamp + 1, tickLength := t.divider, progress := 0 }

/-- TB one period of REFCLK later: the tick under way has come one period further, and one that has run its length waits
for its TICK (R173; log 17). -/
def Timebase.period (t : Timebase) : Timebase :=
  { t with progress := if t.progress < t.tickLength.toNat then t.progress + 1 else t.progress }

/-- What a step does with no command waiting: a period of REFCLK passes, and nothing else (R173; log 1, log 17). -/
def State.idle (s : State) : State := { s with tb := s.tb.period }

/-- TICK: the end of a tick, whenever it is queued: the timestamp increments and every running timer decreases by one
(R173; log 17). -/
def execTick (s : State) : Host.Outcome State Fault Refusal :=
  .next
    { s with
      tb := s.tb.tick
      tt := { s.tt with entries := s.tt.entries.map Entry.tick }
      dp := s.dp.map Port.tick
      up := { s.up with hello := timerTick s.up.hello } }

end Sys2Proof.Machine
end

