-- ==== Sys2Proof/Machine/Upstream.lean ====
section
/-! DEFINITION. The upstream link, request intake and the egress queue (R118 to R148). -/
namespace Sys2Proof.Machine

/-! ### The link -/

/-- UPSTREAM_HELLO_TIMER_EXPIRY: HELLO again, the interval restarted (R131). -/
def execUpstreamHelloTimerExpiry (s : State) : Host.Outcome State Fault Refusal :=
  if s.up.link = .linking ∧ s.up.hello = some 0 then
    .next (s.modUp (fun u => { u.put (helloSymbol u.segId) with hello := some Config.helloInterval }))
  else .next s

/-- Entry to UP: the timer stops and the credits stand at 0 (R131, R132, R142). -/
def Up.enterUp (u : Up) : Up :=
  { u with link := .up, hello := none, rspCredit := Credit.zero, ntfCredit := Credit.zero, reqCredit := 0 }

/-- Entry to UP with its LINK-UP record, which carries the identity of the controller's HELLO (R132). -/
def State.linkUp (s : State) (identity : BitVec 4) : State :=
  (s.modUp Up.enterUp).handEvent .linkUp .nowhere none (fieldAt identity 0)

/-- UP's own state at link loss: flushed, cancelled, credits 0, LINKING, HELLO sent (R134, R147). -/
def Up.lose (u : Up) : Up :=
  { u with
    link := .linking, hello := some Config.helloInterval, rspCredit := Credit.zero, ntfCredit := Credit.zero,
    reqCredit := 0, parked := false, egress := [], reservations := 0, live := [],
    sent := u.sent ++ [helloSymbol u.segId] }

/-- TT at upstream link loss: OPEN entries become EXPIRED with a fresh quarantine, hold queues are emptied (R92). -/
def State.loseTt (s : State) : Tt :=
  { s.tt with
    entries := s.tt.entries.map (fun e =>
      if e.state = .opened then { e with state := .expired, timer := (s.port e.port).timeoutTicks } else e)
    holds := Table.replicate 4 [] }

/-- Loss of the upstream link, handed to DA, TT, MU and the ports (R134, R147, R165). The ports' timers stand (R113,
R117), but for an idle timer whose conditions the emptied hold queue brings about, which the end of the happening starts
(R103; log 26). -/
def State.loseUpstream (s : State) : State :=
  { s with
    up := s.up.lose
    da := { s.da with intake := [] }
    tt := s.loseTt
    dp := s.dp.map (fun q => { q with slot := [] })
    mu := { s.mu with queue := [] }
    ev := { s.ev with upLinkLoss := satInc s.ev.upLinkLoss } }

/-- HELLO received from the controller: bring-up while LINKING, link loss while UP (R131, R133, R134; log 5). -/
def State.helloFromController (s : State) (identity : BitVec 4) : State :=
  match s.up.link with
  | .linking => s.linkUp identity
  | .up => s.loseUpstream

/-- UPSTREAM_HELLO (R132). A symbol that fails its check is ignored (R125). -/
def execUpstreamHello (arg : SymArg) (check : SymCheck) (s : State) : Host.Outcome State Fault Refusal :=
  if symbolOk .hello arg check then .next (s.helloFromController (helloIdentity arg)).settle else .next s

/-- UPSTREAM_LINK_LOSS (R134); DOWN and loss of symbol lock have no effect while LINKING (R131). A symbol that fails
its check is ignored (R125). -/
def execUpstreamLinkLoss (cause : LossCause) (s : State) : Host.Outcome State Fault Refusal :=
  match cause with
  | .symbolLock => if s.up.link = .up then .next s.loseUpstream.settle else .next s
  | .down arg check =>
    if symbolOk .down arg check ∧ s.up.link = .up then .next s.loseUpstream.settle else .next s
  | .hello arg check =>
    if symbolOk .hello arg check then .next (s.helloFromController (helloIdentity arg)).settle else .next s

/-! ### Request intake -/

/-- A frame counted in the upstream bad-frame counter (R119, R133, R137). -/
def State.countUpBad (s : State) : State := s.modEv (fun e => { e with upBad := satInc e.upBad })

/-- A frame that passed its check lowers the counted REQ credit; at 0 it stays 0 (R137). -/
def Up.useCredit (u : Up) : Up := { u with reqCredit := u.reqCredit - 1 }

/-- An answer whose reservation is taken and used in the same happening: the room falls by one (R136, R139). -/
def Up.answerAtOnce (u : Up) (pair : Pair) (status : Status) : Up :=
  { u with egress := u.egress ++ [.rsp (plainRsp pair status)] }

/-- Acceptance: the pair becomes live, a reservation is taken (R138). -/
def Up.accept (u : Up) (pair : Pair) : Up :=
  { u with live := u.live ++ [pair], reservations := u.reservations + 1 }

/-- Acceptance and the place at the tail of the decode intake (R138). -/
def State.accept (s : State) (r : Request) : State :=
  (s.modUp (fun u => u.accept r.pair)).modDa (fun d => { d with intake := d.intake ++ [r] })

/-- Checks 2 to 6 of R137, for a REQ frame that passed its frame check and has used its credit. -/
def State.acceptOrAnswer (s : State) (f : ReqFields) : State :=
  if s.up.pause then s.countUpBad
  else if s.up.room = 0 then s.countUpBad
  else
    match wellFormedRequest f with
    | none =>
      (s.modUp (fun u => u.answerAtOnce f.pair .badRequest)).modEv
        (fun e => { e with upBadRequest := satInc e.upBadRequest })
    | some r =>
      if r.pair ∈ s.up.live then
        (s.modUp (fun u => u.answerAtOnce r.pair .tagInUse)).modEv
          (fun e => { e with upTagInUse := satInc e.upTagInUse })
      else s.accept r

/-- A frame received on the upstream link while it is UP: its class decides what it is (R118, R133, R137; log 6). -/
def State.takeUpFrame (s : State) (frame : List Word) : State :=
  if frameOk frame then
    match frameClass frame with
    | some .req => (s.modUp Up.useCredit).acceptOrAnswer (readReq frame)
    | some .rsp | some .ntf | none => s.countUpBad
  else s.countUpBad

/-- REQ_FRAME_RECEIVED (R137); discarded without counting while LINKING (R131). -/
def execReqFrameReceived (frame : List Word) (s : State) : Host.Outcome State Fault Refusal :=
  match s.up.link with
  | .linking => .next s
  | .up => .next (s.takeUpFrame frame).settle

/-- UPSTREAM_RSP_NTF_FRAME (R118, R133); discarded without counting while LINKING (R131). -/
def execUpstreamRspNtfFrame (frame : List Word) (s : State) : Host.Outcome State Fault Refusal :=
  match s.up.link with
  | .linking => .next s
  | .up => .next (s.takeUpFrame frame).settle

/-! ### Credits, PARK and WAKE -/

/-- The credit a GRANT replaces; a GRANT for REQ or of no defined class is ignored (R127, R133, R176). -/
def Up.takeGrant (u : Up) (c : Option FrameClass) (count : BitVec 8) : Up :=
  match c with
  | some .rsp => { u with rspCredit := Credit.ofCount count }
  | some .ntf => { u with ntfCredit := Credit.ofCount count }
  | some .req | none => u

/-- UPSTREAM_GRANT: the credit is replaced, and the egress queue sends from its head as far as the credits allow
(R126, R127, R133; log 9). -/
def execUpstreamGrant (arg : SymArg) (check : SymCheck) (s : State) : Host.Outcome State Fault Refusal :=
  if symbolOk .grant arg check ∧ (grantClass arg = some .rsp ∨ grantClass arg = some .ntf) ∧ s.up.link = .up then
    .next (s.modUp (fun u => Up.sendMany u.egress.length (u.takeGrant (grantClass arg) (grantCount arg)))).settle
  else .next s

/-- UPSTREAM_PARK: parked, and the counted credit 0 (R128, R143). -/
def execUpstreamPark (arg : SymArg) (check : SymCheck) (s : State) : Host.Outcome State Fault Refusal :=
  if symbolOk .park arg check ∧ s.up.link = .up then
    .next (s.modUp (fun u => { u with parked := true, reqCredit := 0 })).settle
  else .next s

/-- READY, then GRANT for REQ of the room, or of 0 while the pause is set (R143). -/
def Up.wake (u : Up) : Up :=
  let v := { u with parked := false }.put (plainSymbol .ready)
  v.grantReq (if v.pause then 0 else v.room)

/-- UPSTREAM_WAKE (R143). -/
def execUpstreamWake (arg : SymArg) (check : SymCheck) (s : State) : Host.Outcome State Fault Refusal :=
  if symbolOk .wake arg check ∧ s.up.link = .up then .next (s.modUp Up.wake).settle else .next s

/-! ### The egress queue -/

/-- EGRESS_SEND: the head is sent when the link is UP and the credit of its class allows (R127). -/
def execEgressSend (s : State) : Host.Outcome State Fault Refusal :=
  if s.up.headMaySend then .next (s.modUp Up.sendHead).settle else .next s

/-- NOTIFICATION_CLAIM: the buffered notification of port `p` is taken when it is the claim UP takes next (R102,
R144; log 10). -/
def execNotificationClaim (p : PortNo) (s : State) : Host.Outcome State Fault Refusal :=
  if s.nextClaim = some (.port p) then .next (s.takeClaim (.port p)).settle else .next s

/-- EVENT_CLAIM: the record at the head of the event queue is taken when it is the claim UP takes next (R144, R170;
log 10). -/
def execEventClaim (s : State) : Host.Outcome State Fault Refusal :=
  if s.nextClaim = some .events then .next (s.takeClaim .events).settle else .next s

end Sys2Proof.Machine
end

