-- ==== Sys2Proof/Machine/Dispatch.lean ====
section
/-! DEFINITION. One arm per command, in the order of opcode_table.json: each one direct call of its meaning. -/
namespace Sys2Proof.Machine

def exec (i : Instr) (s : State) : Host.Outcome State Fault Refusal :=
  match i with
  | .por straps => Sys2Proof.Machine.execPor straps s
  | .pinReset straps => Sys2Proof.Machine.execPinReset straps s
  | .tick => Sys2Proof.Machine.execTick s
  | .upstreamHelloTimerExpiry => Sys2Proof.Machine.execUpstreamHelloTimerExpiry s
  | .upstreamHello arg check => Sys2Proof.Machine.execUpstreamHello arg check s
  | .upstreamLinkLoss cause => Sys2Proof.Machine.execUpstreamLinkLoss cause s
  | .reqFrameReceived frame => Sys2Proof.Machine.execReqFrameReceived frame s
  | .upstreamRspNtfFrame frame => Sys2Proof.Machine.execUpstreamRspNtfFrame frame s
  | .upstreamGrant arg check => Sys2Proof.Machine.execUpstreamGrant arg check s
  | .upstreamPark arg check => Sys2Proof.Machine.execUpstreamPark arg check s
  | .upstreamWake arg check => Sys2Proof.Machine.execUpstreamWake arg check s
  | .egressSend => Sys2Proof.Machine.execEgressSend s
  | .notificationClaim p => Sys2Proof.Machine.execNotificationClaim p s
  | .eventClaim => Sys2Proof.Machine.execEventClaim s
  | .decode => Sys2Proof.Machine.execDecode s
  | .downstreamFrame p frame => Sys2Proof.Machine.execDownstreamFrame p frame s
  | .downstreamGrantReq p arg check => Sys2Proof.Machine.execDownstreamGrantReq p arg check s
  | .portSend p => Sys2Proof.Machine.execPortSend p s
  | .entryTimeout n => Sys2Proof.Machine.execEntryTimeout n s
  | .quarantineEnd n => Sys2Proof.Machine.execQuarantineEnd n s
  | .portHelloTimerExpiry p => Sys2Proof.Machine.execPortHelloTimerExpiry p s
  | .portHelloReceived p arg check => Sys2Proof.Machine.execPortHelloReceived p arg check s
  | .linkTimerExpiry p => Sys2Proof.Machine.execLinkTimerExpiry p s
  | .downstreamLinkLoss p cause => Sys2Proof.Machine.execDownstreamLinkLoss p cause s
  | .idleTimerExpiry p => Sys2Proof.Machine.execIdleTimerExpiry p s
  | .readyOrWakeReceived p sym arg check => Sys2Proof.Machine.execReadyOrWakeReceived p sym arg check s
  | .wakeTimerExpiry p => Sys2Proof.Machine.execWakeTimerExpiry p s
  | .managementWrite => Sys2Proof.Machine.execManagementWrite s
  | .stagingWrite => Sys2Proof.Machine.execStagingWrite s
  | .portConfigurationWrite => Sys2Proof.Machine.execPortConfigurationWrite s
  | .eventOverflowClear => Sys2Proof.Machine.execEventOverflowClear s
  | .commit => Sys2Proof.Machine.execCommit s
  | .stagingCopy => Sys2Proof.Machine.execStagingCopy s
  | .lock => Sys2Proof.Machine.execLock s
  | .clearAll => Sys2Proof.Machine.execClearAll s
  | .portEnable => Sys2Proof.Machine.execPortEnable s
  | .portDisable => Sys2Proof.Machine.execPortDisable s
  | .portRestart => Sys2Proof.Machine.execPortRestart s
  | .captureClear => Sys2Proof.Machine.execCaptureClear s
  | .counterClear => Sys2Proof.Machine.execCounterClear s
  | .unknownCommand => Sys2Proof.Machine.execUnknownCommand s
  | .segmentReset => Sys2Proof.Machine.execSegmentReset s
  | .trafficPhase => Sys2Proof.Machine.execTrafficPhase s
  | .capturePhase => Sys2Proof.Machine.execCapturePhase s
  | .segmentResetCompletion => Sys2Proof.Machine.execSegmentResetCompletion s
  | .managementRead => Sys2Proof.Machine.execManagementRead s

end Sys2Proof.Machine
end

