-- ==== Sys2Proof/Safety.lean ====
section
/-! DEFINITION. What a sound state of the director is: the spec's laws as predicates on one state, in the terms the
claims use. -/
namespace Sys2Proof.Machine

/-- Frames queued and reservations never exceed 40 places together, and the reservations are the live pairs, each
once: the laws of egress conservation, tag uniqueness and matching reservations (R136, R138, R140). -/
abbrev Up.Conserved (u : Up) : Prop :=
  u.egress.length + u.reservations ≤ Config.egressPlaces ∧ u.reservations = u.live.length ∧ u.live.Nodup

/-- The image meets every condition of R58: the law of the valid active image (R2). -/
abbrev Image.Valid (im : Image) : Prop := im.failure = none

/-- The event queue, MU's input queue and the hold queues keep within their depths (R73, R149, R169). -/
abbrev State.QueuesBounded (s : State) : Prop :=
  s.ev.queue.length ≤ Config.eventPlaces ∧ s.mu.queue.length ≤ Config.muPlaces
    ∧ ∀ p : PortNo, (s.hold p).length ≤ Config.holdPlaces

/-- A port that is not ACTIVE or DRAINING has no OPEN or EXPIRED entry: the law of entries only on live ports
(R90). -/
abbrev State.EntriesOnLivePorts (s : State) : Prop :=
  ∀ n : EntryNo, (s.entry n).state ≠ .free →
    (s.port (s.entry n).port).state = .active ∨ (s.port (s.entry n).port).state = .draining

/-- A hold queue is non-empty only while its port is ACTIVE or WAKING, and while ACTIVE only when the count has
reached the limit or no entry is FREE: the law of held only when waiting (R73). -/
abbrev State.HeldOnlyWhenWaiting (s : State) : Prop :=
  ∀ p : PortNo, s.hold p ≠ [] →
    (s.port p).state = .waking
      ∨ ((s.port p).state = .active ∧ ((s.port p).limit.toNat ≤ s.tt.count p ∨ s.tt.lowestFree = none))

/-- Each timer of a port runs in its own state only, and the fault reason is none except in FAULTED (R95). -/
abbrev Port.TimersBelong (q : Port) : Prop :=
  (q.linkTimer.isSome = true ↔ q.state = .linking) ∧ (q.helloTimer.isSome = true ↔ q.state = .linking)
    ∧ (q.wakeTimer.isSome = true ↔ q.state = .waking) ∧ (q.idleTimer.isSome = true → q.state = .active)
    ∧ (q.reason = .noFault ↔ q.state ≠ .faulted)

/-- The idle timer of a port runs exactly while the conditions of R103 hold. -/
abbrev State.IdleTimersRight (s : State) : Prop :=
  ∀ p : PortNo, (s.port p).idleTimer.isSome = s.idleHolds p

/-- The upstream HELLO interval timer runs exactly while the link is LINKING (R129, R131). -/
abbrev Up.HelloRuns (u : Up) : Prop := u.hello.isSome = true ↔ u.link = .linking

/-- Every request of a send slot belongs to an OPEN entry of its port (R99). -/
abbrev State.SlotsOpen (s : State) : Prop :=
  ∀ p : PortNo, ∀ i ∈ (s.port p).slot, (s.entry i.entry).opensFor p = true

/-- A FREE entry holds zero in every other field (R70). -/
abbrev State.FreeEntriesBlank (s : State) : Prop :=
  ∀ n : EntryNo, (s.entry n).state = .free → s.entry n = Entry.blank

/-- An EMPTY cell holds a zeroed record and a load count of 0 (R41). -/
abbrev Da.EmptyCellsZero (d : Da) : Prop :=
  ∀ c : CellNo, (d.cells.get c).full = false → d.cells.get c = (d.cells.get c).emptied

/-- While a SEGMENT-RESET runs the ingress pause is set and MU's queue is empty (R146, R161). -/
abbrev State.ResetHolds (s : State) : Prop :=
  match s.mu.cmd with
  | .idle => s.up.pause = false ∧ s.mu.aborts = 0
  | .executing _ _ => s.up.pause = true ∧ s.mu.queue = []

/-- The ranged configuration items hold values in their ranges, and the tick under way has a length it has not passed
(R96, R173). -/
abbrev State.ConfigInRange (s : State) : Prop :=
  (∀ p : PortNo, 1 ≤ (s.port p).limit.toNat ∧ (s.port p).limit.toNat ≤ 16 ∧ (s.port p).respTimeout ≠ 0#16
    ∧ (s.port p).wakeTimeout ≠ 0#8 ∧ (s.port p).linkTimeout ≠ 0#8) ∧ s.tb.divider ≠ 0#8
    ∧ s.tb.tickLength ≠ 0#8 ∧ s.tb.progress ≤ s.tb.tickLength.toNat

/-- The write of a SEGMENT-RESET under way, while its reservation has not been cancelled (R161, R164). -/
def State.resetWrite (s : State) : List Pair :=
  match s.mu.cmd with
  | .idle => []
  | .executing _ w => if w ∈ s.up.live then [w] else []

/-- The pairs of the requests that stand in the director: in the decode intake, in MU's queue, held, in an OPEN entry,
or as the write of a SEGMENT-RESET under way (R138). -/
def State.inFlight (s : State) : List Pair :=
  s.da.intake.map (fun r => r.pair) ++ s.mu.queue.map (fun r => r.pair)
    ++ ((List.finRange 4).flatMap s.hold).map (fun r => r.pair)
    ++ s.tt.openPairs (fun _ => true) ++ s.resetWrite

/-- A frame is a response to a pair. -/
def UpFrame.answers (pair : Pair) : UpFrame → Bool
  | .rsp r => r.pair = pair
  | .ntf _ => false

/-- The live tag set is exactly the pairs of the requests that stand in the director, each once (R138, R140). -/
abbrev State.LiveInFlight (s : State) : Prop := s.up.live.Perm s.inFlight

/-- Every value the spec gives the director at power-on reset, for the straps sampled (R27, R53, R69, R93, R95, R96,
R117, R129, R130, R135, R148, R166, R175). -/
structure State.PoweredOn (straps : Straps) (s : State) : Prop where
  link : s.up.link = .linking ∧ s.up.hello = some 1000 ∧ s.up.segId = straps.segId
  credits : s.up.rspCredit = .counted 0 ∧ s.up.ntfCredit = .counted 0 ∧ s.up.reqCredit = 0
  flags : s.up.parked = false ∧ s.up.pause = false ∧ s.up.claim = .port 0
  egress : s.up.egress = [] ∧ s.up.reservations = 0 ∧ s.up.live = []
  banks : s.da.active = Image.boot ∧ s.da.staging = Image.empty ∧ s.da.generation = 0#16
  bankFlags : s.da.lock = false ∧ s.da.retain = false
  decode : s.da.intake = [] ∧ ∀ n : TermNo, s.da.hits.get n = 0#32
  recovery : s.da.rcvSrc = straps.rcvSrc ∧ s.da.rcvEn = straps.rcvEn
  cells : ∀ c : CellNo, (s.da.cells.get c).mode = .latch ∧ (s.da.cells.get c).hold = false
    ∧ (s.da.cells.get c).full = false ∧ (s.da.cells.get c).record = .zero ∧ (s.da.cells.get c).loads = 0#16
  table : (∀ n : EntryNo, s.entry n = Entry.blank) ∧ (∀ p : PortNo, s.hold p = []) ∧ s.tt.rr = 0
  ports : ∀ p : PortNo, (s.port p).state = .disabled ∧ (s.port p).reason = .noFault
  portConfig : ∀ p : PortNo, (s.port p).limit = 8#5 ∧ (s.port p).respTimeout = 625#16
    ∧ (s.port p).idleInterval = 0#8 ∧ (s.port p).wakeTimeout = 63#8 ∧ (s.port p).linkTimeout = 20#8
    ∧ (s.port p).notify = true
  portTimers : ∀ p : PortNo, (s.port p).linkTimer = none ∧ (s.port p).helloTimer = none
    ∧ (s.port p).idleTimer = none ∧ (s.port p).wakeTimer = none
  portTraffic : ∀ p : PortNo, (s.port p).slot = [] ∧ (s.port p).credit = .counted 0 ∧ (s.port p).ntfBuf = none
    ∧ (s.port p).ntfGranted = false
  portCounters : ∀ p : PortNo, (s.port p).bad = 0#32 ∧ (s.port p).stray = 0#32 ∧ (s.port p).late = 0#32
    ∧ (s.port p).discarded = 0#32
  management : s.mu.queue = [] ∧ s.mu.cmd = .idle ∧ s.mu.arg = 0#32 ∧ s.mu.last = ⟨0#8, .ok, 0#32⟩
    ∧ s.mu.aborts = 0
  events : s.ev.mask = 0b10011001#8 ∧ s.ev.queue = [] ∧ s.ev.overflow = false ∧ s.ev.marker = false
  counters : (∀ k : Fin 10, s.ev.decisions.get k = 0#32) ∧ s.ev.upBad = 0#32 ∧ s.ev.upBadRequest = 0#32
    ∧ s.ev.upTagInUse = 0#32 ∧ s.ev.upLinkLoss = 0#32
  timebase : s.tb.divider = 50#8 ∧ s.tb.timestamp = 0#32

/-- UP takes the claim of `c`, the one it takes next, in state `a`, and leaves `b`: a port's buffer empties and its
notification joins the tail of the egress queue, or the head record leaves the event queue as a notification of origin 7,
length 3 and the standing segment identity, with the marker if one is pending; the pointer moves past the claimant (R102,
R144, R170). -/
def State.ClaimTaken (c : Claimant) (a b : State) : Prop :=
  a.nextClaim = some c ∧
  match c with
  | .port p => ∃ n, (a.port p).ntfBuf = some n ∧ b = { a with
      up := { a.up with
        egress := a.up.egress ++ [.ntf n], claim := if h : p.val < 3 then .port ⟨p.val + 1, by omega⟩ else .events }
      dp := a.dp.set p { a.port p with ntfBuf := none } }
  | .events => ∃ r rest, a.ev.queue = r :: rest ∧ b = { a with
      up := { a.up with
        egress := a.up.egress ++ [.ntf { src := a.up.segId, origin := 7#3, length := 3#4,
                                         payload := eventPayload r a.ev.marker }]
        claim := .port 0 }
      ev := { a.ev with queue := rest, marker := false } }

/-- Claims taken one after another, each the one UP takes next (R144). -/
def State.ClaimsTaken : List Claimant → State → State → Prop
  | [], a, b => b = a
  | c :: rest, a, b => ∃ x, State.ClaimTaken c a x ∧ State.ClaimsTaken rest x b

/-- How a happening ends: what `t` may differ in from `m`, the state the happening itself made. The claims that find
room are taken, each port and UP offer the grants that are due, and every idle timer runs or stops as its conditions
stand; nothing else changes (R100, R103, R142, R144, R170). -/
structure State.Closes (m t : State) : Prop where
  da : t.da = m.da
  tt : t.tt = m.tt
  mu : t.mu = m.mu
  tb : t.tb = m.tb
  pending : t.pending = m.pending
  /-- UP changes by the claims it took and by a REQ grant alone. -/
  up : t.up = { m.up with egress := t.up.egress, claim := t.up.claim, reqCredit := t.up.reqCredit, sent := t.up.sent }
  /-- The claims that find room are taken one after another, until none is left to take; nothing else makes or takes away
  a frame, a buffered notification or a record. -/
  claims : ∃ cs u, State.ClaimsTaken cs m u ∧ u.nextClaim = none ∧ t.up.egress = u.up.egress ∧ t.up.claim = u.up.claim
    ∧ t.ev = u.ev ∧ ∀ p : PortNo, (t.port p).ntfBuf = (u.port p).ntfBuf
  /-- The claimed frames stand behind what the happening queued, and each took room. -/
  claimed : ∃ ns : List Ntf, t.up.egress = m.up.egress ++ ns.map UpFrame.ntf ∧ ns.length ≤ m.up.room
    ∧ (ns = [] ∨ m.up.link = .up)
  /-- A REQ grant is sent when the room the claims left differs from the counted credit, and only then. -/
  granted : (t.up.reqCredit = m.up.reqCredit ∧ t.up.sent = m.up.sent)
    ∨ (t.up.reqCredit = t.up.room ∧ t.up.room ≠ m.up.reqCredit
        ∧ t.up.sent = m.up.sent ++ [grantSymbol .req (BitVec.ofNat 8 t.up.room)]
        ∧ m.up.link = .up ∧ m.up.pause = false ∧ m.up.parked = false)
  /-- EQ changes by the records claimed from its head alone; a marker pending goes with the first of them. -/
  ev : t.ev = { m.ev with queue := t.ev.queue, marker := t.ev.marker }
  records : ∃ k, t.ev.queue = m.ev.queue.drop k ∧ k ≤ m.ev.queue.length
    ∧ t.ev.marker = (if k = 0 then m.ev.marker else false)
  /-- A port changes by its idle timer, a claim of its buffer and a notification grant alone. -/
  port : ∀ p : PortNo, t.port p = { m.port p with
    idleTimer := m.idleTimerOf p, ntfBuf := (t.port p).ntfBuf, ntfGranted := (t.port p).ntfGranted,
    sent := (t.port p).sent }
  buffer : ∀ p : PortNo, (t.port p).ntfBuf = (m.port p).ntfBuf ∨ (t.port p).ntfBuf = none
  grantsNtf : ∀ p : PortNo,
    ((t.port p).ntfGranted = (m.port p).ntfGranted ∧ (t.port p).sent = (m.port p).sent)
    ∨ ((m.port p).ntfGranted = false ∧ (t.port p).ntfGranted = true
        ∧ (t.port p).sent = (m.port p).sent ++ [grantSymbol .ntf 1#8]
        ∧ ((m.port p).state = .active ∨ (m.port p).state = .parked ∨ (m.port p).state = .waking)
        ∧ (t.port p).ntfBuf = none ∧ m.up.link = .up ∧ 1 ≤ t.up.room)
  /-- Nothing that is due is left over. -/
  noClaim : t.nextClaim = none
  noNtfGrant : ∀ p : PortNo, t.grantsNtf p = false
  noReqGrant : t.up.offersGrant = false

/-- The terms a request hits as the director stands (R5, R8). -/
def State.hitsOf (s : State) (r : Request) : List TermNo := s.da.active.hitting s.da.fullCells r

/-- The outcome of its decode (R10, R14). -/
def State.routeOf (s : State) (r : Request) : Route := s.da.route (s.hitsOf r) r

/-- What becomes of it (R15 to R19, R32). -/
def State.verdictOf (s : State) (r : Request) : Verdict := s.da.active.verdict (s.hitsOf r) r (s.routeOf r)

/-- What the decode of `r` does at DA and EQ whatever becomes of it, laid over a state `x`: the intake left is `rest`, the
cells are loaded, the hits counted, the outcome counted and the records handed, all from the state `s` before the decode
(R13, steps 7 to 9). -/
def State.withDecode (s : State) (rest : List Request) (r : Request) (x : State) : State :=
  { x with
    da := { s.da with
      intake := rest
      cells := s.da.cells.imap (s.loadedCell (s.hitsOf r) r (s.routeOf r))
      hits := s.da.hits.imap (fun n w => if n ∈ s.hitsOf r then satInc w else w) }
    ev := (s.decodeEvents (s.hitsOf r) r (s.routeOf r)).foldl Events.hand
      ((decisionCounters (s.routeOf r) (s.verdictOf r)).foldl Events.countDecision s.ev) }

/-- Which command of the table serves the WRITE or MODIFY `r` at the head of MU's queue that carries no command: by the
words of its span, and by what it writes to an enable word (log 11). -/
def State.rowServes (s : State) (r : Request) : Instr → Bool
  | .managementWrite => s.isPlainWrite r
  | .stagingWrite => r.isStagingWrite
  | .portConfigurationWrite => r.isPortConfigWrite
  | .eventOverflowClear => r.isOverflowClear
  | .portEnable => s.writesEnable r true
  | .portDisable => s.writesEnable r false
  | _ => false

end Sys2Proof.Machine
end

