-- ==== Sys2Proof/Certificates/Slice0/Obligations.lean ====
section
/-! DEFINITION. The statements for the provers, in the order of OBLIGATIONS.json. An event record is written ⟨kind,
locus, pair, detail, stamp⟩, the fields in the order of `EventRecord`; a happening is said by the state it makes and
`State.Closes`, which says how every happening ends. -/
open Sys2Proof Sys2Proof.Machine

/-! ### Steps, resets and ticks -/

/-- A step takes the command at the front of the queue and carries it out on the state that keeps the rest; with
no command waiting a period of REFCLK passes, which brings the tick under way one period further and changes nothing
else; that it passes there is the model's choice (log 1, log 17). -/
def Obligations.StepTakesFrontCommand : Prop :=
  ∀ (c : Instr) (rest : List Instr) (s : State),
    (s.pending = c :: rest → step s = exec c { s with pending := rest })
    ∧ (s.pending = [] → step s = .next { s with tb := { s.tb with
        progress := if s.tb.progress < s.tb.tickLength.toNat then s.tb.progress + 1 else s.tb.progress } })

/-- POR gives every block its power-on values for the straps sampled and sends HELLO (R27, R53, R69, R93, R117,
R129, R130, R148, R166, R175), and the waiting commands and the record of what was sent are kept (log 1, log 7).
The state the machine starts from is that state for the straps of log 3. -/
def Obligations.PorLoadsPowerOnValues : Prop :=
  State.reset.PoweredOn Straps.low ∧
  ∀ (straps : Straps) (s : State), ∃ t, exec (.por straps) s = .next t ∧ t.PoweredOn straps
    ∧ t.up.sent = s.up.sent ++ [helloSymbol straps.segId] ∧ (∀ p, (t.port p).sent = (s.port p).sent)
    ∧ t.pending = s.pending

/-- A pin reset keeps banks by RETAIN and the lock and everything else by RETAIN alone (R53, R67, R68, R97, R117,
R130, R175), clears the traffic state without answers (R93, R148, R166) and sends HELLO (R129). The waiting commands
and the record of what was sent are kept, which is the model's choice (log 1, log 7). The tick that begins has the
length of the divider and no period behind it (log 17). -/
def Obligations.PinResetKeepsByRetainAndLock : Prop :=
  ∀ (straps : Straps) (s : State), ∃ t, exec (.pinReset straps) s = .next t
    -- the banks
    ∧ (s.da.lock = true → t.da.active = s.da.active ∧ t.da.generation = s.da.generation
        ∧ t.da.staging = s.da.staging ∧ t.da.lock = true)
    ∧ (s.da.lock = false → s.da.retain = true → t.da.active = s.da.active ∧ t.da.generation = s.da.generation
        ∧ t.da.staging = Image.empty ∧ t.da.lock = false)
    ∧ (s.da.lock = false → s.da.retain = false → t.da.active = Image.boot ∧ t.da.generation = 0#16
        ∧ t.da.staging = Image.empty ∧ t.da.lock = false)
    ∧ t.da.retain = s.da.retain ∧ t.da.intake = [] ∧ (∀ n : TermNo, t.da.hits.get n = 0#32)
    ∧ t.da.rcvSrc = straps.rcvSrc ∧ t.da.rcvEn = straps.rcvEn
    -- the cells
    ∧ (∀ c : CellNo, t.da.cells.get c =
        { mode := if s.da.retain then (s.da.cells.get c).mode else .latch
          hold := if s.da.retain then (s.da.cells.get c).hold else false
          full := false, record := .zero, loads := 0#16 })
    -- UP
    ∧ t.up = { link := .linking, hello := some 1000, segId := if s.da.retain then s.up.segId else straps.segId,
               rspCredit := .zero, ntfCredit := .zero, reqCredit := 0, parked := false, pause := false, egress := [],
               reservations := 0, live := [], claim := .port 0, sent := s.up.sent ++ [helloSymbol t.up.segId] }
    -- TT and MU
    ∧ (∀ n : EntryNo, t.entry n = Entry.blank) ∧ (∀ p : PortNo, t.hold p = []) ∧ t.tt.rr = 0
    ∧ t.mu = { queue := [], cmd := .idle, arg := 0#32, last := ⟨0#8, .ok, 0#32⟩, aborts := 0 }
    -- the ports
    ∧ (∀ p : PortNo, s.da.retain = false → t.port p = { Port.powerOn with sent := (s.port p).sent })
    ∧ (∀ p : PortNo, s.da.retain = true → (s.port p).state = .disabled → t.port p = { Port.powerOn with
        limit := (s.port p).limit, respTimeout := (s.port p).respTimeout, idleInterval := (s.port p).idleInterval,
        wakeTimeout := (s.port p).wakeTimeout, linkTimeout := (s.port p).linkTimeout, notify := (s.port p).notify,
        sent := (s.port p).sent })
    ∧ (∀ p : PortNo, s.da.retain = true → (s.port p).state ≠ .disabled → t.port p = { Port.powerOn with
        limit := (s.port p).limit, respTimeout := (s.port p).respTimeout, idleInterval := (s.port p).idleInterval,
        wakeTimeout := (s.port p).wakeTimeout, linkTimeout := (s.port p).linkTimeout, notify := (s.port p).notify,
        state := .linking, helloTimer := some 1000, linkTimer := some (1000 * (s.port p).linkTimeout.toNat),
        sent := (s.port p).sent ++ [helloSymbol t.up.segId] })
    -- EQ and TB
    ∧ t.ev.mask = (if s.da.retain then s.ev.mask else 0b10011001#8) ∧ t.ev.queue = [] ∧ t.ev.overflow = false
    ∧ t.ev.marker = false ∧ (∀ k : Fin 10, t.ev.decisions.get k = 0#32) ∧ t.ev.upBad = 0#32
    ∧ t.ev.upBadRequest = 0#32 ∧ t.ev.upTagInUse = 0#32 ∧ t.ev.upLinkLoss = 0#32
    ∧ t.tb.divider = (if s.da.retain then s.tb.divider else 50#8) ∧ t.tb.timestamp = 0#32
    ∧ t.tb.tickLength = t.tb.divider ∧ t.tb.progress = 0 ∧ t.pending = s.pending

/-- A tick adds one to the timestamp, which wraps, and takes one from every running timer: the entries', the
ports' and UP's (R82, R95, R129, R173, R174). A timer at 0 stays there until its happening is taken (log 18). The tick
that begins takes its length from the divider and has no period behind it (R173); that a tick ends when TICK is taken,
whatever its length and progress, is the model's choice (log 17). Nothing else changes. -/
def Obligations.TickCountsEveryTimer : Prop :=
  ∀ s : State, ∃ t, exec .tick s = .next t
    ∧ t.tb.timestamp = s.tb.timestamp + 1 ∧ t.tb.divider = s.tb.divider ∧ t.tb.tickLength = s.tb.divider
    ∧ t.tb.progress = 0
    ∧ (∀ n : EntryNo, (s.entry n).state = .free → t.entry n = s.entry n)
    ∧ (∀ n : EntryNo, (s.entry n).state ≠ .free → t.entry n = { s.entry n with timer := (s.entry n).timer - 1 })
    ∧ t.tt = { s.tt with entries := t.tt.entries }
    ∧ (∀ p : PortNo, t.port p = { s.port p with
        linkTimer := (s.port p).linkTimer.map (fun k => k - 1)
        helloTimer := (s.port p).helloTimer.map (fun k => k - 1)
        idleTimer := (s.port p).idleTimer.map (fun k => k - 1)
        wakeTimer := (s.port p).wakeTimer.map (fun k => k - 1) })
    ∧ t.up = { s.up with hello := s.up.hello.map (fun k => k - 1) }
    ∧ t.da = s.da ∧ t.mu = s.mu ∧ t.ev = s.ev ∧ t.pending = s.pending

/-! ### The upstream link -/

/-- While a link is LINKING and its HELLO interval has run out, HELLO is sent with the segment identity that
stands and the interval starts again at 1,000 ticks; nothing else changes (R98, R131). Before that nothing
happens (log 2). -/
def Obligations.HelloTimersResend : Prop :=
  (∀ s : State, s.up.link = .linking → s.up.hello = some 0 →
    exec .upstreamHelloTimerExpiry s = .next { s with up := { s.up with
      hello := some 1000, sent := s.up.sent ++ [helloSymbol s.up.segId] } })
  ∧ (∀ s : State, ¬ (s.up.link = .linking ∧ s.up.hello = some 0) → exec .upstreamHelloTimerExpiry s = .next s)
  ∧ (∀ (s : State) (p : PortNo), (s.port p).state = .linking → (s.port p).helloTimer = some 0 →
    exec (.portHelloTimerExpiry p) s = .next { s with dp := s.dp.set p { s.port p with
      helloTimer := some 1000, sent := (s.port p).sent ++ [helloSymbol s.up.segId] } })
  ∧ (∀ (s : State) (p : PortNo), ¬ ((s.port p).state = .linking ∧ (s.port p).helloTimer = some 0) →
    exec (.portHelloTimerExpiry p) s = .next s)

/-- The controller's HELLO takes a LINKING link to UP: the interval timer stops, the credits stand at 0, and a
LINK-UP record with the identity of that HELLO is handed to EQ (R131, R132). The claims and the first REQ grant
follow as every happening ends (R142, R144). -/
def Obligations.ControllerHelloBringsLinkUp : Prop :=
  ∀ (s : State) (arg : SymArg), s.up.link = .linking →
    ∃ t, exec (.upstreamHello arg (symbolCheck .hello arg)) s = .next t ∧ State.Closes { s with
      up := { s.up with link := .up, hello := none, rspCredit := .zero, ntfCredit := .zero, reqCredit := 0 }
      ev := s.ev.hand ⟨.linkUp, .nowhere, none, (arg.extractLsb' 0 4).setWidth 32, s.tb.timestamp⟩ } t

/-- DOWN, loss of symbol lock or HELLO while the link is UP loses the link in one happening: UP is flushed and
cancelled, the intake, MU's queue, the hold queues and the send slots are emptied without answers, every OPEN entry
becomes EXPIRED with a fresh quarantine, the loss is counted and HELLO is sent (R92, R113, R134, R147, R165). That a
HELLO carried by either of its two rows acts so while UP is an inference of the model (log 5). The ports' timers
stand, but for the idle timer of a port whose emptied hold queue brings its conditions about, which the end of the
happening starts: the model's choice (log 26). While LINKING, DOWN and loss of symbol lock have no effect (R131). -/
def Obligations.UpstreamLossFlushesTraffic : Prop :=
  ∀ (s : State) (a : SymArg),
    (s.up.link = .up → ∀ c ∈ ([.upstreamLinkLoss .symbolLock, .upstreamLinkLoss (.down a (symbolCheck .down a)),
        .upstreamLinkLoss (.hello a (symbolCheck .hello a)), .upstreamHello a (symbolCheck .hello a)] : List Instr),
      ∃ t, exec c s = .next t ∧ State.Closes { s with
        up := { s.up with
          link := .linking, hello := some 1000, rspCredit := .zero, ntfCredit := .zero, reqCredit := 0,
          parked := false, egress := [], reservations := 0, live := [],
          sent := s.up.sent ++ [helloSymbol s.up.segId] }
        da := { s.da with intake := [] }
        tt := { s.tt with
          entries := s.tt.entries.map (fun e => if e.state = .opened then
            { e with state := .expired, timer := 16 * (s.port e.port).respTimeout.toNat } else e)
          holds := Table.replicate 4 [] }
        dp := s.dp.map (fun q => { q with slot := [] })
        mu := { s.mu with queue := [] }
        ev := { s.ev with upLinkLoss := satInc s.ev.upLinkLoss } } t)
    ∧ (s.up.link = .linking → ∀ c ∈ ([.upstreamLinkLoss .symbolLock,
        .upstreamLinkLoss (.down a (symbolCheck .down a))] : List Instr), exec c s = .next s)

/-! ### Request intake -/

/-- A REQ frame that passes its check while the link is UP, the pause clear and room left is answered
BAD-REQUEST when it is malformed, TAG-IN-USE when its pair is live, and is else accepted: live, with a
reservation, at the tail of the decode intake, its fields as received (R120, R136 to R139). It uses one REQ
credit. -/
def Obligations.RequestFrameAcceptedOrAnswered : Prop :=
  ∀ (s : State) (frame : List Word), s.up.link = .up → frameOk frame = true → frameClass frame = some .req →
    s.up.pause = false → 1 ≤ s.up.room →
    let f := readReq frame
    let v := { s.up with reqCredit := s.up.reqCredit - 1 }
    ∃ t, exec (.reqFrameReceived frame) s = .next t
      ∧ ((∀ op, ¬ (Opcode.ofCode f.opcode = some op ∧ 1 ≤ f.length.toNat ∧ f.length.toNat ≤ 64
            ∧ f.payload.length = payloadWords op f.length)) →
          State.Closes { s with
            up := { v with egress := s.up.egress ++ [.rsp (plainRsp f.pair .badRequest)] }
            ev := { s.ev with upBadRequest := satInc s.ev.upBadRequest } } t)
      ∧ (∀ op, Opcode.ofCode f.opcode = some op → 1 ≤ f.length.toNat → f.length.toNat ≤ 64 →
          f.payload.length = payloadWords op f.length →
          (f.pair ∈ s.up.live → State.Closes { s with
            up := { v with egress := s.up.egress ++ [.rsp (plainRsp f.pair .tagInUse)] }
            ev := { s.ev with upTagInUse := satInc s.ev.upTagInUse } } t)
          ∧ (f.pair ∉ s.up.live → State.Closes { s with
            up := { v with live := s.up.live ++ [f.pair], reservations := s.up.reservations + 1 }
            da := { s.da with intake := s.da.intake ++ [{ pair := f.pair, opcode := op, length := f.length,
                                                           addr := f.addr, payload := f.payload }] } } t))

/-- An upstream frame that gets no answer: while LINKING it is discarded without counting (R131); while UP it is
counted as bad when it fails its check, is of class RSP or NTF or of none (R118, R133), or is a request that finds the
pause set or no room, which uses its REQ credit (R137). Nothing else changes but how the happening ends. That a frame
is what its class field says whichever of the two rows carries it, and that one of no defined class is counted as bad,
is an inference of the model (log 6). -/
def Obligations.UpstreamFrameDiscarded : Prop :=
  ∀ (s : State) (frame : List Word), ∀ c ∈ ([.reqFrameReceived frame, .upstreamRspNtfFrame frame] : List Instr),
    (s.up.link = .linking → exec c s = .next s)
    ∧ (s.up.link = .up → (frameOk frame = false ∨ frameClass frame ≠ some .req) →
        ∃ t, exec c s = .next t ∧ State.Closes { s with ev := { s.ev with upBad := satInc s.ev.upBad } } t)
    ∧ (s.up.link = .up → frameOk frame = true → frameClass frame = some .req →
        (s.up.pause = true ∨ s.up.room = 0) →
        ∃ t, exec c s = .next t ∧ State.Closes { s with
          up := { s.up with reqCredit := s.up.reqCredit - 1 }
          ev := { s.ev with upBad := satInc s.ev.upBad } } t)

/-! ### The egress queue -/

/-- The head of the egress queue is sent when the link is UP and the credit of its class allows, which lowers a
counted credit by one; else the head waits and every frame behind it. A GRANT for RSP or NTF received while UP
replaces that credit by its count, 255 making it open, and sends frames from the head in order until the head
finds no credit; any other GRANT is ignored (R126, R127, R131, R133, R145). Frames claimed at the end of a GRANT's
happening wait for a send of their own (log 9), and a send that is not due leaves the state (log 2). -/
def Obligations.EgressQueueSentOnCredit : Prop :=
  (∀ (s : State) (arg : SymArg),
    (∀ v : Up, s.up.link = .up →
      ((grantClass arg = some .rsp ∧ v = { s.up with rspCredit := Credit.ofCount (grantCount arg) })
        ∨ (grantClass arg = some .ntf ∧ v = { s.up with ntfCredit := Credit.ofCount (grantCount arg) })) →
      ∃ k t, exec (.upstreamGrant arg (symbolCheck .grant arg)) s = .next t ∧ k ≤ s.up.egress.length
        ∧ State.Closes { s with up := { (s.up.egress.take k).foldl Up.spend v with
            egress := s.up.egress.drop k
            sent := s.up.sent ++ (s.up.egress.take k).map (fun f => Tx.frame f.words) } } t
        ∧ (∀ (j : Nat) (f : UpFrame), j < k → s.up.egress[j]? = some f →
            (((s.up.egress.take j).foldl Up.spend v).creditFor f).allows = true)
        ∧ (∀ f : UpFrame, s.up.egress[k]? = some f →
            (((s.up.egress.take k).foldl Up.spend v).creditFor f).allows = false))
    ∧ ((s.up.link = .linking ∨ grantClass arg = some .req ∨ grantClass arg = none) →
        exec (.upstreamGrant arg (symbolCheck .grant arg)) s = .next s))
  ∧ (∀ (s : State) (rest : List UpFrame),
    (∀ r : Rsp, s.up.link = .up → s.up.egress = .rsp r :: rest → s.up.rspCredit.allows = true →
      ∃ t, exec .egressSend s = .next t ∧ State.Closes { s with up := { s.up with
        egress := rest, rspCredit := s.up.rspCredit.spend, sent := s.up.sent ++ [.frame (responseWords r)] } } t)
    ∧ (∀ n : Ntf, s.up.link = .up → s.up.egress = .ntf n :: rest → s.up.ntfCredit.allows = true →
      ∃ t, exec .egressSend s = .next t ∧ State.Closes { s with up := { s.up with
        egress := rest, ntfCredit := s.up.ntfCredit.spend, sent := s.up.sent ++ [.frame (notificationWords n)] } } t)
    ∧ ((s.up.link = .linking ∨ s.up.egress = []
        ∨ (∃ f, s.up.egress.head? = some f ∧ (s.up.creditFor f).allows = false)) → exec .egressSend s = .next s)
    ∧ (∀ n : Fin 255, (Credit.counted n).allows = decide (0 < n.val)
        ∧ ∀ m : Fin 255, (Credit.counted n).spend = .counted m → m.val = n.val - 1)
    ∧ Credit.unlimited.allows = true ∧ Credit.unlimited.spend = .unlimited
    ∧ (∀ c : BitVec 8, (c = 255#8 → Credit.ofCount c = .unlimited)
        ∧ ∀ n : Fin 255, c.toNat = n.val → Credit.ofCount c = .counted n))

/-- A PARK from the controller while UP sets parked and the counted REQ credit to 0; a WAKE while UP clears
parked and sends READY, then GRANT for REQ of the room, or of 0 while the pause is set (R128, R143). While
LINKING both are ignored (R131). -/
def Obligations.ControllerParksAndWakes : Prop :=
  ∀ (s : State) (a : SymArg),
    (s.up.link = .up →
      (∃ t, exec (.upstreamPark a (symbolCheck .park a)) s = .next t ∧ State.Closes { s with
        up := { s.up with parked := true, reqCredit := 0 } } t)
      ∧ ∃ t, exec (.upstreamWake a (symbolCheck .wake a)) s = .next t ∧ State.Closes { s with up := { s.up with
          parked := false
          reqCredit := if s.up.pause then 0 else s.up.room
          sent := s.up.sent ++ [plainSymbol .ready,
            grantSymbol .req (BitVec.ofNat 8 (if s.up.pause then 0 else s.up.room))] } } t)
    ∧ (s.up.link = .linking → exec (.upstreamPark a (symbolCheck .park a)) s = .next s
        ∧ exec (.upstreamWake a (symbolCheck .wake a)) s = .next s)

/-- A claim is taken while UP has room, from the first claimant that waits in turn from the claim pointer: the
frame joins the tail of the egress queue and the pointer moves past the claimant. A port's notification leaves
its buffer; the head record leaves the event queue as a notification of origin 7, length 3 and the standing
segment identity, with the marker if one is pending (R102, R124, R144, R170). When it is not the claim UP takes
next, nothing happens (log 10). -/
def Obligations.ClaimsTakenInTurn : Prop :=
  ∀ s : State,
    (∀ (p : PortNo) (n : Ntf), s.nextClaim = some (.port p) → (s.port p).ntfBuf = some n →
      ∃ t, exec (.notificationClaim p) s = .next t ∧ State.Closes { s with
        up := { s.up with egress := s.up.egress ++ [.ntf n], claim := if h : p.val < 3 then .port ⟨p.val + 1,
            by omega⟩ else .events }
        dp := s.dp.set p { s.port p with ntfBuf := none } } t)
    ∧ (∀ (r : EventRecord) (rest : List EventRecord), s.nextClaim = some .events → s.ev.queue = r :: rest →
      ∃ t, exec .eventClaim s = .next t ∧ State.Closes { s with
        up := { s.up with
          egress := s.up.egress ++ [.ntf { src := s.up.segId, origin := 7#3, length := 3#4,
                                           payload := eventPayload r s.ev.marker }]
          claim := .port 0 }
        ev := { s.ev with queue := rest, marker := false } } t)
    ∧ (∀ p : PortNo, s.nextClaim ≠ some (.port p) → exec (.notificationClaim p) s = .next s)
    ∧ (s.nextClaim ≠ some .events → exec .eventClaim s = .next s)
    ∧ (∀ c : Claimant, s.nextClaim = some c ↔ s.up.link = .up ∧ 1 ≤ s.up.room
        ∧ ∃ before after, claimantsFrom s.up.claim = before ++ c :: after ∧ s.waits c = true
          ∧ ∀ d ∈ before, s.waits d = false)
    ∧ claimantsFrom (.port 0) = [.port 0, .port 1, .port 2, .port 3, .events]
    ∧ (∀ c : Claimant, claimantsFrom c.next = (claimantsFrom c).tail ++ [c])

/-! ### The decode -/

/-- A term hits a request exactly when it is valid, the bits of the start address under its mask equal those of
its value, its opcode and source sets hold the request's, every cell of its need-full set is FULL and every cell
of its need-empty set is not (R5 to R8). -/
def Obligations.TermHitsWhenConditionsHold : Prop :=
  ∀ (d : Da) (t : Term) (r : Request), t.hits d.fullCells r = true ↔
    t.valid = true
    ∧ (∀ i : Nat, t.mask.getLsbD i = true → r.addr.getLsbD i = t.value.getLsbD i)
    ∧ t.opcodes.getLsbD (match r.opcode with | .read => 0 | .write => 1 | .modify => 2) = true
    ∧ t.sources.getLsbD r.pair.src.toNat = true
    ∧ (∀ c : CellNo, t.needFull.getLsbD c.val = true → (d.cells.get c).full = true)
    ∧ (∀ c : CellNo, t.needEmpty.getLsbD c.val = true → (d.cells.get c).full = false)

/-- A select is asserted exactly when some hitting term names it with ASSERT and no hitting term names it with
INHIBIT (R9). -/
def Obligations.SelectAssertedUnlessInhibited : Prop :=
  ∀ (im : Image) (hits : List TermNo) (sel : Select), sel ∈ im.assertedSelects hits ↔
    (∃ n ∈ hits, (im.terms.get n).polarity = .assert ∧ Select.ofCode (im.terms.get n).select = some sel)
    ∧ ¬ ∃ n ∈ hits, (im.terms.get n).polarity = .inhibit ∧ Select.ofCode (im.terms.get n).select = some sel

/-- The outcome: off the recovery path no asserted select takes the default select of the header, marked as such (R3),
one takes that select, two or more are a CONFLICT (R10); the recovery path goes to MGMT whatever the terms say, and is no
CONFLICT (R14). The governing term of an asserted select is the lowest-indexed hitting ASSERT term of it (R11).
The select codes are those of 11.1, and 6 and 7 name none. -/
def Obligations.OutcomeFromAssertedSelects : Prop :=
  ∀ (d : Da) (r : Request),
    let hits := d.active.hitting d.fullCells r
    let sels := d.active.assertedSelects hits
    let recovery := d.rcvEn = true ∧ r.pair.src = d.rcvSrc ∧ 0xFFFF0000 ≤ r.addr.toNat
    sels.Nodup
    ∧ (recovery → d.route hits r = .recovery ∧ d.active.verdict hits r (d.route hits r) = .toMgmt)
    ∧ (¬ recovery →
        (sels = [] → d.route hits r = .byDefault d.active.defaultSel)
        ∧ (∀ sel, sels = [] → Select.ofCode d.active.defaultSelect = some sel → d.route hits r = .byDefault sel)
        ∧ (∀ sel, sels = [sel] → d.route hits r = .asserted sel)
        ∧ (2 ≤ sels.length → d.route hits r = .conflict sels))
    ∧ (∀ (sel : Select) (g : TermNo), d.active.governing hits sel = some g ↔
        (g ∈ hits ∧ (d.active.terms.get g).polarity = .assert
          ∧ Select.ofCode (d.active.terms.get g).select = some sel)
        ∧ ∀ n : TermNo, n < g → ¬ (n ∈ hits ∧ (d.active.terms.get n).polarity = .assert
          ∧ Select.ofCode (d.active.terms.get n).select = some sel))
    ∧ (∀ n : TermNo, n ∈ hits ↔ (d.active.terms.get n).hits d.fullCells r = true)
    ∧ (([0, 1, 2, 3, 4, 5, 6, 7] : List Nat).map (fun k => Select.ofCode (BitVec.ofNat 3 k))
      = [some (.port 0), some (.port 1), some (.port 2), some (.port 3), some .mgmt, some .reject, none, none])
    ∧ (∀ sel, Select.ofCode d.active.defaultSelect = some sel → d.active.defaultSel = sel)

/-- A window of the active image refuses SPAN a span that is not whole in its range, its end computed without
wrapping, then PROTECTED an opcode its rights do not allow, and else forwards the request at translated base +
offset: no carry leaves the 32 bits, and the forwarded span lies in the translated range (R30, R33 to R36).

The decode applies the window that the governing term of an asserted port select names, and no other: an asserted port
select whose governing term names no window, and a port select taken by default, forward the request to that port at the
address received (R15, R32, R36, R38). An asserted select always has a governing term (R11). -/
def Obligations.WindowChecksThenTranslates : Prop :=
  (∀ (w : Window) (p : PortNo) (r : Request), w.fault = none → 1 ≤ r.length.toNat →
    let k := w.exponent.toNat
    let spanIn := w.base.toNat ≤ r.addr.toNat ∧ r.addr.toNat + r.length.toNat - 1 ≤ w.base.toNat + 2 ^ k - 1
    let allowed := match r.opcode with
      | .read => w.readAllowed = true
      | .write => w.writeAllowed = true
      | .modify => w.readAllowed = true ∧ w.writeAllowed = true
    (¬ spanIn → w.apply p r = .refuse .span)
    ∧ (spanIn → ¬ allowed → w.apply p r = .refuse .protectedAccess)
    ∧ (spanIn → allowed → ∃ a : Word, w.apply p r = .toPort p a
        ∧ a.toNat = w.translated.toNat + (r.addr.toNat - w.base.toNat)
        ∧ w.translated.toNat ≤ a.toNat ∧ a.toNat + r.length.toNat ≤ w.translated.toNat + 2 ^ k
        ∧ w.translated.toNat + 2 ^ k ≤ 2 ^ 32))
  ∧ ∀ (s : State) (r : Request) (p : PortNo),
    let im := s.da.active
    (∀ g, s.routeOf r = .asserted (.port p) → im.governing (s.hitsOf r) (.port p) = some g →
      ((im.terms.get g).windowPresent = true →
        s.verdictOf r = (im.windows.get (im.terms.get g).window.toFin).apply p r)
      ∧ ((im.terms.get g).windowPresent = false → s.verdictOf r = .toPort p r.addr))
    ∧ (s.routeOf r = .byDefault (.port p) → s.verdictOf r = .toPort p r.addr)
    ∧ (∀ sel, s.routeOf r = .asserted sel → ∃ g, im.governing (s.hitsOf r) sel = some g)

/-- DECODE of a request that a REJECT, a CONFLICT or its window refuses answers it in the same happening (R17 to R19,
R37); one with an MGMT outcome joins MU's input queue, or is answered BUSY when the queue holds 4, or ABORTED and
counted while a SEGMENT-RESET runs (R16, R150). Nothing else changes but what every decode does at DA and EQ (R13),
whose records are all handed before a claim is taken (log 8). An empty intake leaves the state (log 2). -/
def Obligations.DecodeAnswersOrHandsToManagement : Prop :=
  ∀ (s : State) (r : Request) (rest : List Request),
    (s.da.intake = [] → exec .decode s = .next s)
    ∧ (s.da.intake = r :: rest →
      (∀ st, s.verdictOf r = .refuse st → ∃ t, exec .decode s = .next t
        ∧ State.Closes (s.withDecode rest r { s with up := s.up.respond (plainRsp r.pair st) }) t)
      ∧ (s.verdictOf r = .toMgmt → s.mu.cmd = .idle → s.mu.queue.length < 4 → ∃ t, exec .decode s = .next t
        ∧ State.Closes (s.withDecode rest r { s with mu := { s.mu with queue := s.mu.queue ++ [r] } }) t)
      ∧ (s.verdictOf r = .toMgmt → s.mu.cmd = .idle → 4 ≤ s.mu.queue.length → ∃ t, exec .decode s = .next t
        ∧ State.Closes (s.withDecode rest r { s with up := s.up.respond (plainRsp r.pair .busy) }) t)
      ∧ (s.verdictOf r = .toMgmt → s.mu.cmd ≠ .idle → ∃ t, exec .decode s = .next t
        ∧ State.Closes (s.withDecode rest r { s with
          up := s.up.respond (plainRsp r.pair .aborted)
          mu := { s.mu with aborts := s.mu.aborts + 1 } }) t)
      ∧ (∀ sel sels, (s.routeOf r = .asserted .reject ∨ s.routeOf r = .byDefault .reject →
            s.verdictOf r = .refuse .refused)
          ∧ (s.routeOf r = .conflict sels → s.verdictOf r = .refuse .conflict)
          ∧ (s.routeOf r = .asserted sel ∨ s.routeOf r = .byDefault sel → sel = .mgmt → s.verdictOf r = .toMgmt)))

/-- TT takes a decoded port request by the state of its port: NO-TARGET from a port that is DISABLED, LINKING,
DRAINING or FAULTED; a PARKED port is woken with the request first in its hold queue; a WAKING port, and an
ACTIVE one that cannot issue, hold it while the queue holds fewer than 4 and answer BUSY else; an ACTIVE port
with an empty hold queue, room under its limit and a FREE entry issues it at once, the pointer unmoved (R74 to
R76, R104). It carries the forwarded address. The records of the decode are all handed before a claim is taken (log 8). -/
def Obligations.DecodedPortRequestByPortState : Prop :=
  ∀ (s : State) (r : Request) (rest : List Request) (p : PortNo) (addr : Word),
    s.da.intake = r :: rest → s.verdictOf r = .toPort p addr →
    let r' : Request := { r with addr := addr }
    let held : Tt := { s.tt with holds := s.tt.holds.set p (s.hold p ++ [r']) }
    let st := (s.port p).state
    let issues : Prop := s.hold p = [] ∧ s.tt.count p < (s.port p).limit.toNat
    ∃ t, exec .decode s = .next t
      ∧ (st = .disabled ∨ st = .linking ∨ st = .draining ∨ st = .faulted →
          State.Closes (s.withDecode rest r { s with up := s.up.respond (plainRsp r.pair .noTarget) }) t)
      ∧ (st = .parked → State.Closes (s.withDecode rest r { s with
          tt := held
          dp := s.dp.set p { s.port p with
            state := .waking, wakeTimer := some (16 * (s.port p).wakeTimeout.toNat)
            sent := (s.port p).sent ++ [plainSymbol .wake] } }) t)
      ∧ ((st = .waking ∨ (st = .active ∧ ¬ issues) ∨ (st = .active ∧ s.tt.lowestFree = none)) →
          ((s.hold p).length < 4 → State.Closes (s.withDecode rest r { s with tt := held }) t)
          ∧ (4 ≤ (s.hold p).length →
              State.Closes (s.withDecode rest r { s with up := s.up.respond (plainRsp r.pair .busy) }) t))
      ∧ (∀ n, st = .active → issues → s.tt.lowestFree = some n → State.Closes (s.withDecode rest r { s with
          tt := { s.tt with
            entries := s.tt.entries.set n
              { state := .opened, pair := r.pair, port := p, opcode := r.opcode, length := r.length, addr := addr,
                timer := 16 * (s.port p).respTimeout.toNat, stamp := s.tb.timestamp } }
          dp := s.dp.set p { s.port p with
            slot := (s.port p).slot ++ [{ entry := n, src := s.up.segId, opcode := r.opcode, length := r.length,
                                          addr := addr, payload := r.payload }] } }) t)

/-- After a decode each cell that a hitting term names has been offered one load by the lowest-indexed such
term: a held cell and a FULL LATCH cell decline it; any other takes the record of this decode, becomes FULL and
counts the load up to 65535 (R42 to R47). Every other cell, and every cell's mode and hold flag, stand. -/
def Obligations.CaptureLoadByModeAndHold : Prop :=
  ∀ (s t : State) (r : Request) (rest : List Request) (c : CellNo),
    s.da.intake = r :: rest → exec .decode s = .next t →
    let x := s.da.cells.get c
    let names : TermNo → Prop := fun n => (s.da.active.terms.get n).hits s.da.fullCells r = true
      ∧ (s.da.active.terms.get n).capturePresent = true ∧ (s.da.active.terms.get n).cell.toNat = c.val
    ((∀ n, ¬ names n) → t.da.cells.get c = x)
    ∧ (x.hold = true → t.da.cells.get c = x)
    ∧ (x.mode = .latch → x.full = true → t.da.cells.get c = x)
    ∧ (∀ n, names n → (∀ m, m < n → ¬ names m) → x.hold = false → (x.mode = .track ∨ x.full = false) →
        t.da.cells.get c = { x with
          full := true
          record := { pair := r.pair, opcode := r.opcode, addr := r.addr, length := r.length,
                      term := BitVec.ofNat 6 n.val, outcome := (s.routeOf r).recorded,
                      stamp := s.tb.timestamp, generation := s.da.generation }
          loads := if x.loads = 0xFFFF#16 then 0xFFFF#16 else x.loads + 1 })

/-- Every decode adds one, up to FFFFFFFFh, to the hit counter of each hitting term, whatever the outcome, and
to no other (R23); it adds one to the decision counters that its outcome names and to no other (R20). -/
def Obligations.DecodeCountsHitsAndOutcome : Prop :=
  ∀ (s t : State) (r : Request) (rest : List Request), s.da.intake = r :: rest → exec .decode s = .next t →
    (∀ n : TermNo, t.da.hits.get n =
      if (s.da.active.terms.get n).hits s.da.fullCells r = true ∧ s.da.hits.get n ≠ 0xFFFFFFFF#32 then
        s.da.hits.get n + 1 else s.da.hits.get n)
    ∧ (∀ cs : List DecisionCounter,
        (match s.routeOf r with
          | .recovery => cs = [.select .mgmt]
          | .asserted sel =>
            cs = if s.verdictOf r = .refuse .span then [.select sel, .span]
              else if s.verdictOf r = .refuse .protectedAccess then [.select sel, .protectedAccess] else [.select sel]
          | .byDefault sel => cs = [.select sel, .default]
          | .conflict _ => cs = [.conflict]) →
        ∀ k : Fin 10, t.ev.decisions.get k =
          if k ∈ cs.map DecisionCounter.index ∧ s.ev.decisions.get k ≠ 0xFFFFFFFF#32 then s.ev.decisions.get k + 1
          else s.ev.decisions.get k)

/-- The staging image is never used for decoding: two states that differ in it alone decode to states that
differ in it alone, every answer, route, load and record alike (R1). -/
def Obligations.StagingNeverDecides : Prop :=
  ∀ (s : State) (im : Image), ∃ t, exec .decode s = .next t ∧ t.da.staging = s.da.staging
    ∧ exec .decode { s with da := { s.da with staging := im } } = .next { t with da := { t.da with staging := im } }

/-- The boot image passes the management window to MGMT through term 0, whatever the source and opcode, and
refuses everything else; it and the empty image pass validation (R25, R26). -/
def Obligations.BootImageServesManagementOnly : Prop :=
  Image.boot.Valid ∧ Image.empty.Valid ∧
  ∀ (s : State) (r : Request),
    (s.da.active = Image.boot → 0xFFFF0000 ≤ r.addr.toNat → s.hitsOf r = [0] ∧ s.verdictOf r = .toMgmt)
    ∧ (s.da.active = Image.boot → r.addr.toNat < 0xFFFF0000 →
        s.hitsOf r = [] ∧ s.routeOf r = .byDefault .reject ∧ s.verdictOf r = .refuse .refused)
    ∧ (s.da.active = Image.empty → s.hitsOf r = [] ∧ (s.da.recovers r = false → s.verdictOf r = .refuse .refused))

/-- The records of a decode are the CAPTURE records of the LATCH cells it fills, in ascending cell order, and
then, for a CONFLICT, one CONFLICT record that names the lowest-indexed hitting ASSERT term among the asserted
selects and shows their set; each carries the request's pair and the timestamp of the decode (R13, R18, R48). -/
def Obligations.DecodeRecordsCapturesThenConflict : Prop :=
  ∀ (s : State) (r : Request),
    let names : CellNo → TermNo → Prop := fun c n => n ∈ s.hitsOf r
      ∧ (s.da.active.terms.get n).capturePresent = true ∧ (s.da.active.terms.get n).cell.toNat = c.val
    let fills : CellNo → Prop := fun c => (∃ n, names c n) ∧ (s.da.cells.get c).hold = false
      ∧ (s.da.cells.get c).mode = .latch ∧ (s.da.cells.get c).full = false
    ∃ (caps confs : List EventRecord), s.decodeEvents (s.hitsOf r) r (s.routeOf r) = caps ++ confs
      ∧ (∃ cs : List CellNo, caps.map (fun e => e.locus) = cs.map Locus.cell ∧ cs.Pairwise (fun a b => a < b)
          ∧ ∀ c, c ∈ cs ↔ fills c)
      ∧ (∀ e ∈ caps, e.kind = .capture ∧ e.pair = some r.pair ∧ e.stamp = s.tb.timestamp
          ∧ ∃ c n, e.locus = .cell c ∧ names c n ∧ (∀ m, m < n → ¬ names c m)
            ∧ e.detail = BitVec.ofNat 32 (n.val + 256 * (s.routeOf r).recorded.code.toNat))
      ∧ (∀ sels, s.routeOf r = .conflict sels → ∃ n, confs =
            [⟨.conflict, .term n, some r.pair,
                sels.foldl (fun acc sel => acc ||| (1#32 <<< sel.code.toNat)) 0#32, s.tb.timestamp⟩]
          ∧ (n ∈ s.hitsOf r ∧ ∃ sel ∈ sels, (s.da.active.terms.get n).assertsSel sel = true)
          ∧ ∀ m, m < n → ¬ (m ∈ s.hitsOf r ∧ ∃ sel ∈ sels, (s.da.active.terms.get m).assertsSel sel = true))
      ∧ ((∀ sels, s.routeOf r ≠ .conflict sels) → confs = [])

/-! ### Responses, timeouts and the issuing pass -/

/-- A frame on a downstream link that reaches nobody: where the link is not up it is discarded without counting;
where it is up, one that fails its check, a REQ frame and a frame of no defined class are counted as bad, and
nothing else changes (R101, R118). -/
def Obligations.DownstreamFrameDiscarded : Prop :=
  ∀ (s : State) (p : PortNo) (frame : List Word),
    ((s.port p).state = .disabled ∨ (s.port p).state = .linking ∨ (s.port p).state = .faulted →
      exec (.downstreamFrame p frame) s = .next s)
    ∧ ((s.port p).state = .active ∨ (s.port p).state = .parked ∨ (s.port p).state = .waking
        ∨ (s.port p).state = .draining →
      (frameOk frame = false ∨ frameClass frame = some .req ∨ frameClass frame = none) →
      exec (.downstreamFrame p frame) s = .next { s with
        dp := s.dp.set p { s.port p with bad := satInc (s.port p).bad } })

/-- What is forwarded for an OPEN entry carries its pair; OK with the payload only for a READ whose payload is
exactly the length asked for; TARGET-ERROR for a READ of any other payload count and for an undefined code; any
other defined status unchanged; and no payload in any of these (R80). -/
def Obligations.ForwardedResponseByStatus : Prop :=
  ∀ (e : Entry) (r : TargetRsp), (forwarded e r).pair = e.pair
    ∧ (r.status = some .ok → e.opcode = .read → r.payload.length = e.length.toNat →
        forwarded e r = { pair := e.pair, status := .ok, length := e.length, payload := r.payload })
    ∧ (r.status = some .ok → e.opcode = .read → r.payload.length ≠ e.length.toNat →
        forwarded e r = { pair := e.pair, status := .targetError, length := 0#7, payload := [] })
    ∧ (r.status = some .ok → e.opcode ≠ .read →
        forwarded e r = { pair := e.pair, status := .ok, length := 0#7, payload := [] })
    ∧ (∀ st, r.status = some st → st ≠ .ok →
        forwarded e r = { pair := e.pair, status := st, length := 0#7, payload := [] })
    ∧ (r.status = none → forwarded e r = { pair := e.pair, status := .targetError, length := 0#7, payload := [] })

/-- A response from port `p` whose tag names an entry of `p` ends that entry. An OPEN one is answered against its
reservation, and its request withdrawn if it was not sent (R79, R80); an EXPIRED one is absorbed, counted as late and
reported (R81). Then the issuing pass runs and a drain whose count has come to 0 completes (R77, R108); that its
PORT-STATE record is handed behind the LATE record is the model's choice (log 27). In ACTIVE a running idle timer
restarts (R101, R103). -/
def Obligations.ResponseEndsItsEntry : Prop :=
  ∀ (s : State) (p : PortNo) (n : EntryNo) (frame : List Word),
    frameOk frame = true → frameClass frame = some .rsp → (readRsp frame).tag.toNat = n.val →
    ((s.port p).state = .active ∨ (s.port p).state = .draining) → (s.entry n).port = p →
    let heard : Port := { s.port p with
      idleTimer := if (s.port p).state = .active then
        (s.port p).idleTimer.map (fun _ => 1000 * (s.port p).idleInterval.toNat) else (s.port p).idleTimer }
    let freed : Tt := { s.tt with entries := s.tt.entries.set n Entry.blank }
    ((s.entry n).state = .opened → ∃ t, exec (.downstreamFrame p frame) s = .next t
      ∧ State.Closes (State.finishDrain (State.issuingPass { s with
          up := s.up.respond (forwarded (s.entry n) (readRsp frame))
          tt := freed
          dp := s.dp.set p { heard with slot := (s.port p).slot.filter (fun i => i.entry ≠ n) } }) p) t)
    ∧ ((s.entry n).state = .expired → ∃ t, exec (.downstreamFrame p frame) s = .next t
      ∧ State.Closes (State.finishDrain (State.issuingPass { s with
          tt := freed
          dp := s.dp.set p { heard with late := satInc (s.port p).late }
          ev := s.ev.hand ⟨.late, .port p, some (s.entry n).pair,
              BitVec.ofNat 32 (n.val + 256 * ((readRsp frame).status.getD .targetError).code.toNat), s.tb.timestamp⟩ }) p) t)

/-- A response from port `p` whose tag is above 31, or names an entry that is FREE or another port's, is stray:
counted and reported with what was found under the tag, and nothing else changes (R79, R81). -/
def Obligations.StrayResponseDiscarded : Prop :=
  ∀ (s : State) (p : PortNo) (frame : List Word) (found : Nat),
    frameOk frame = true → frameClass frame = some .rsp →
    ((s.port p).state = .active ∨ (s.port p).state = .draining) →
    ((31 < (readRsp frame).tag.toNat ∧ found = 3)
      ∨ ∃ n : EntryNo, n.val = (readRsp frame).tag.toNat
        ∧ (((s.entry n).state = .free ∧ found = 0)
          ∨ ((s.entry n).state = .opened ∧ (s.entry n).port ≠ p ∧ found = 1)
          ∨ ((s.entry n).state = .expired ∧ (s.entry n).port ≠ p ∧ found = 2))) →
    ∃ t, exec (.downstreamFrame p frame) s = .next t ∧ State.Closes { s with
      dp := s.dp.set p { s.port p with
        idleTimer := if (s.port p).state = .active then
          (s.port p).idleTimer.map (fun _ => 1000 * (s.port p).idleInterval.toNat) else (s.port p).idleTimer
        stray := satInc (s.port p).stray }
      ev := s.ev.hand ⟨.stray, .port p, none, BitVec.ofNat 32 ((readRsp frame).tag.toNat + 256 * found),
          s.tb.timestamp⟩ } t

/-- A notification from the target of an ACTIVE or DRAINING port uses up the grant. While DRAINING it is
discarded and counted as such, and counted as a bad frame too when it is malformed, each counter by its own rule (R102,
R115; log 25). In ACTIVE a malformed one is counted as bad, one that notify enable refuses or that finds
the buffer full is discarded and counted, and any other enters the buffer with the port as its origin; a running
idle timer restarts (R100 to R103, R115). -/
def Obligations.TargetNotificationTaken : Prop :=
  ∀ (s : State) (p : PortNo) (frame : List Word), frameOk frame = true → frameClass frame = some .ntf →
    let q := s.port p
    let len := ((headerWord frame).extractLsb' 19 4).toNat
    let payload := (frame.drop 1).dropLast
    let malformed : Prop := len < 1 ∨ 8 < len ∨ payload.length ≠ len
    let heard : Port := { q with
      ntfGranted := false, idleTimer := q.idleTimer.map (fun _ => 1000 * q.idleInterval.toNat) }
    (q.state = .draining → ∃ t, exec (.downstreamFrame p frame) s = .next t
      ∧ State.Closes { s with dp := s.dp.set p { q with
          ntfGranted := false, discarded := satInc q.discarded
          bad := if malformed then satInc q.bad else q.bad } } t)
    ∧ (q.state = .active → ∃ t, exec (.downstreamFrame p frame) s = .next t
      ∧ (malformed → State.Closes { s with dp := s.dp.set p { heard with bad := satInc q.bad } } t)
      ∧ (¬ malformed → (q.notify = false ∨ q.ntfBuf ≠ none) →
          State.Closes { s with dp := s.dp.set p { heard with discarded := satInc q.discarded } } t)
      ∧ (¬ malformed → q.notify = true → q.ntfBuf = none →
          State.Closes { s with dp := s.dp.set p { heard with
            ntfBuf := some { src := (headerWord frame).extractLsb' 26 4, origin := BitVec.ofNat 3 p.val,
                             length := (headerWord frame).extractLsb' 19 4, payload := payload } } } t))

/-- READY, WAKE or a frame that passes its check takes a PARKED or WAKING port to ACTIVE, with its PORT-STATE
record, and the issuing pass follows. A response among them finds no entry of the port and is stray; a
notification is then taken as in ACTIVE (R78, R101, R103, R105). In every other state READY and WAKE are ignored
(R98, R103, R107). -/
def Obligations.FarEndWakesPort : Prop :=
  ∀ (s : State) (p : PortNo) (a : SymArg),
    let q := s.port p
    let woken : Port := { q with
      state := .active, reason := .noFault, linkTimer := none, helloTimer := none, wakeTimer := none }
    let moved : Events := s.ev.hand ⟨.portState, .port p, none, BitVec.ofNat 32 (2 + 16 * q.state.code.toNat),
        s.tb.timestamp⟩
    (q.state = .parked ∨ q.state = .waking →
      (∀ c ∈ ([.readyOrWakeReceived p .ready a (symbolCheck .ready a),
          .readyOrWakeReceived p .wake a (symbolCheck .wake a)] : List Instr),
        ∃ t, exec c s = .next t
          ∧ State.Closes (State.issuingPass { s with dp := s.dp.set p woken, ev := moved }) t)
      ∧ (∀ frame, frameOk frame = true → frameClass frame = some .rsp →
          (∀ n : EntryNo, (s.entry n).state ≠ .free → (s.entry n).port ≠ p) →
          ∃ t, exec (.downstreamFrame p frame) s = .next t ∧ State.Closes (State.issuingPass { s with
            dp := s.dp.set p { woken with stray := satInc q.stray }
            ev := moved.hand ⟨.stray, .port p, none,
                BitVec.ofNat 32 ((readRsp frame).tag.toNat + 256 * (s.strayFound (readRsp frame).tag).toNat), s.tb.timestamp⟩ }) t)
      ∧ (∀ frame, frameOk frame = true → frameClass frame = some .ntf →
          ∃ t, exec (.downstreamFrame p frame) s = .next t ∧ State.Closes (State.issuingPass { s with
            dp := s.dp.set p (woken.takeNotification (readNtf p frame)), ev := moved }) t))
    ∧ (q.state ≠ .parked → q.state ≠ .waking →
      exec (.readyOrWakeReceived p .ready a (symbolCheck .ready a)) s = .next s
      ∧ exec (.readyOrWakeReceived p .wake a (symbolCheck .wake a)) s = .next s)

/-- The timer of an OPEN entry running out answers TIMEOUT, makes the entry EXPIRED for a fresh quarantine of
the response timeout that stands, withdraws its request if it was not sent and hands a TIMEOUT record; no entry
becomes FREE (R83). The timer of an EXPIRED entry running out frees it without a response or a count; the
issuing pass follows, and a drain whose count has come to 0 completes with DOWN, DISABLED and a PORT-STATE
record (R84, R108). Before that nothing happens (log 2). -/
def Obligations.EntryTimersExpireThenFree : Prop :=
  (∀ (s : State) (n : EntryNo),
    let e := s.entry n
    (e.state = .opened → e.timer = 0 → ∃ t, exec (.entryTimeout n) s = .next t ∧ State.Closes { s with
      up := s.up.respond { pair := e.pair, status := .timeout, length := 0#7, payload := [] }
      tt := { s.tt with entries := s.tt.entries.set n { e with
        state := .expired, timer := 16 * (s.port e.port).respTimeout.toNat } }
      dp := s.dp.set e.port { s.port e.port with
        slot := (s.port e.port).slot.filter (fun i => i.entry ≠ n) }
      ev := s.ev.hand ⟨.timeout, .port e.port, some e.pair, BitVec.ofNat 32 n.val, s.tb.timestamp⟩ } t)
    ∧ ((e.state ≠ .opened ∨ e.timer ≠ 0) → exec (.entryTimeout n) s = .next s))
  ∧ (∀ (s : State) (n : EntryNo),
    let e := s.entry n
    (e.state = .expired → e.timer = 0 → ∃ t, exec (.quarantineEnd n) s = .next t
      ∧ State.Closes (State.finishDrain (State.issuingPass
          { s with tt := { s.tt with entries := s.tt.entries.set n Entry.blank } }) e.port) t)
    ∧ ((e.state ≠ .expired ∨ e.timer ≠ 0) → exec (.quarantineEnd n) s = .next s)
    ∧ (∀ p : PortNo,
        ((s.port p).state = .draining → (∀ m : EntryNo, (s.entry m).state ≠ .free → (s.entry m).port ≠ p) →
          s.finishDrain p = { s with
            dp := s.dp.set p { s.port p with
              state := .disabled, reason := .noFault, linkTimer := none, helloTimer := none, idleTimer := none,
              wakeTimer := none, credit := .zero, ntfGranted := false,
              sent := (s.port p).sent ++ [plainSymbol .down] }
            ev := s.ev.hand ⟨.portState, .port p, none, BitVec.ofNat 32 (16 * 5), s.tb.timestamp⟩ })
        ∧ ((s.port p).state ≠ .draining → s.finishDrain p = s)
        ∧ ((∃ m : EntryNo, (s.entry m).state ≠ .free ∧ (s.entry m).port = p) → s.finishDrain p = s)))

/-- One round of the issuing pass takes the first eligible port from the pointer on, issues the head of its hold
queue into the lowest FREE entry and moves the pointer past it; the pass ends when no port is eligible or no
entry FREE, so it leaves every ACTIVE port with an empty hold queue, a count at its limit, or no FREE entry; and
it changes no other state (R71, R75 to R77). From the pointer on, the ports come in ascending order, port 0 after port 3. -/
def Obligations.IssuingPassServesWaitingPorts : Prop :=
  ∀ s : State,
    (∀ p : PortNo, (s.issuingPass.port p).state = .active → s.issuingPass.hold p = []
      ∨ (s.issuingPass.port p).limit.toNat ≤ s.issuingPass.tt.count p
      ∨ ∀ n : EntryNo, (s.issuingPass.entry n).state ≠ .free)
    ∧ (∀ (p : PortNo) (n : EntryNo) (r : Request) (rest : List Request),
        s.arbiterChoice = some p → s.tt.lowestFree = some n → s.hold p = r :: rest →
        s.issuingPass = State.issuingPass { s with
          tt := { s.tt with
            entries := s.tt.entries.set n
              { state := .opened, pair := r.pair, port := p, opcode := r.opcode, length := r.length, addr := r.addr,
                timer := 16 * (s.port p).respTimeout.toNat, stamp := s.tb.timestamp }
            holds := s.tt.holds.set p rest
            rr := p + 1 }
          dp := s.dp.set p { s.port p with slot := (s.port p).slot ++
            [{ entry := n, src := s.up.segId, opcode := r.opcode, length := r.length, addr := r.addr,
               payload := r.payload }] } })
    ∧ ((s.arbiterChoice = none ∨ s.tt.lowestFree = none) → s.issuingPass = s)
    ∧ (∀ p : PortNo, s.arbiterChoice = some p ↔
        ∃ before after, portsFrom s.tt.rr = before ++ p :: after
          ∧ ((s.port p).state = .active ∧ s.hold p ≠ [] ∧ s.tt.count p < (s.port p).limit.toNat)
          ∧ ∀ d ∈ before, ¬ ((s.port d).state = .active ∧ s.hold d ≠ [] ∧ s.tt.count d < (s.port d).limit.toNat))
    ∧ (∀ n : EntryNo, s.tt.lowestFree = some n ↔
        (s.entry n).state = .free ∧ ∀ m : EntryNo, m < n → (s.entry m).state ≠ .free)
    ∧ portsFrom 0 = [0, 1, 2, 3] ∧ (∀ p : PortNo, portsFrom (p + 1) = (portsFrom p).tail ++ [p])

/-! ### The downstream ports -/

/-- The head of a send slot is sent while the port is ACTIVE or DRAINING and its REQ credit allows: it leaves
the slot, a counted credit falls by one, and a running idle timer restarts. A GRANT for REQ received while the
link is up replaces the credit and sends requests from the head in order while it allows; in PARKED and WAKING
the credit alone changes. Any other GRANT, and a GRANT while the link is not up, is ignored (R71, R98, R99,
R103, R107, R126). A count of 255 makes the credit open. A send that is not due leaves the state (log 2). -/
def Obligations.SendSlotSentOnCredit : Prop :=
  (∀ (s : State) (p : PortNo) (arg : SymArg),
    let q := s.port p
    let v := Credit.ofCount (grantCount arg)
    let live : Prop := q.state = .active ∨ q.state = .parked ∨ q.state = .waking ∨ q.state = .draining
    (live → grantClass arg = some .req →
      ∃ k, k ≤ q.slot.length ∧ exec (.downstreamGrantReq p arg (symbolCheck .grant arg)) s = .next { s with
        dp := s.dp.set p { q with
          credit := (Credit.spend)^[k] v
          slot := q.slot.drop k
          idleTimer := if k = 0 then q.idleTimer else q.idleTimer.map (fun _ => 1000 * q.idleInterval.toNat)
          sent := q.sent ++ (q.slot.take k).map (fun i => Tx.frame (requestWords i)) } }
      ∧ (∀ j, j < k → ((Credit.spend)^[j] v).allows = true)
      ∧ (q.state = .active ∨ q.state = .draining → k < q.slot.length → ((Credit.spend)^[k] v).allows = false)
      ∧ (q.state = .parked ∨ q.state = .waking → k = 0))
    ∧ ((¬ live ∨ grantClass arg ≠ some .req) →
        exec (.downstreamGrantReq p arg (symbolCheck .grant arg)) s = .next s))
  ∧ (∀ (s : State) (p : PortNo),
    let q := s.port p
    (∀ (i : SlotItem) (rest : List SlotItem), (q.state = .active ∨ q.state = .draining) → q.slot = i :: rest →
      q.credit.allows = true → exec (.portSend p) s = .next { s with dp := s.dp.set p { q with
        slot := rest, credit := q.credit.spend
        idleTimer := q.idleTimer.map (fun _ => 1000 * q.idleInterval.toNat)
        sent := q.sent ++ [.frame (requestWords i)] } })
    ∧ (((q.state ≠ .active ∧ q.state ≠ .draining) ∨ q.slot = [] ∨ q.credit.allows = false) →
        exec (.portSend p) s = .next s))
  ∧ (∀ c : BitVec 8, (c = 255#8 → Credit.ofCount c = .unlimited)
      ∧ ∀ n : Fin 255, c.toNat = n.val → Credit.ofCount c = .counted n)

/-- A LINKING port whose link timer runs out, and a WAKING port whose wake timer runs out, go to FAULTED with
the reason of that timer, every timer stopped, credit 0, no grant outstanding, and a PORT-STATE record; a failed
wake answers every held request TARGET-LOST in queue order (R87, R98, R105). Before that nothing happens (log
2). -/
def Obligations.TimersRunOutFaultPort : Prop :=
  ∀ (s : State) (p : PortNo),
    let q := s.port p
    let faulted : FaultReason → Port := fun why => { q with
      state := .faulted, reason := why, linkTimer := none, helloTimer := none, idleTimer := none, wakeTimer := none,
      credit := .zero, ntfGranted := false }
    let event : Nat → Events := fun detail => s.ev.hand ⟨.portState, .port p, none, BitVec.ofNat 32 detail,
        s.tb.timestamp⟩
    (q.state = .linking → q.linkTimer = some 0 → ∃ t, exec (.linkTimerExpiry p) s = .next t
      ∧ State.Closes { s with dp := s.dp.set p (faulted .linkTimeout), ev := event (6 + 16 * 1 + 256 * 1) } t)
    ∧ (q.state = .waking → q.wakeTimer = some 0 → ∃ t, exec (.wakeTimerExpiry p) s = .next t
      ∧ State.Closes { s with
          up := ((s.hold p).map (fun r => plainRsp r.pair .targetLost)).foldl Up.respond s.up
          tt := { s.tt with holds := s.tt.holds.set p [] }
          dp := s.dp.set p (faulted .wakeTimeout), ev := event (6 + 16 * 4 + 256 * 2) } t)
    ∧ ((q.state ≠ .linking ∨ q.linkTimer ≠ some 0) → exec (.linkTimerExpiry p) s = .next s)
    ∧ ((q.state ≠ .waking ∨ q.wakeTimer ≠ some 0) → exec (.wakeTimerExpiry p) s = .next s)

/-- HELLO from the target takes a LINKING port to ACTIVE: both timers stop, RSP grant is given open, a PORT-STATE
record is handed and the issuing pass follows (R77, R98, R100). A DISABLED or FAULTED port ignores it (R107). That a
HELLO carried by either of its two rows acts so is an inference of the model (log 5). -/
def Obligations.TargetHelloActivatesPort : Prop :=
  ∀ (s : State) (p : PortNo) (a : SymArg),
    let q := s.port p
    (q.state = .linking → ∀ c ∈ ([.portHelloReceived p a (symbolCheck .hello a),
        .downstreamLinkLoss p (.hello a (symbolCheck .hello a))] : List Instr),
      ∃ t, exec c s = .next t ∧ State.Closes (State.issuingPass { s with
        dp := s.dp.set p { q with
          state := .active, reason := .noFault, linkTimer := none, helloTimer := none, wakeTimer := none
          sent := q.sent ++ [grantSymbol .rsp 255#8] }
        ev := s.ev.hand ⟨.portState, .port p, none, BitVec.ofNat 32 (2 + 16 * 1), s.tb.timestamp⟩ }) t)
    ∧ (q.state = .disabled ∨ q.state = .faulted →
        exec (.portHelloReceived p a (symbolCheck .hello a)) s = .next s
        ∧ exec (.downstreamLinkLoss p (.hello a (symbolCheck .hello a))) s = .next s)

/-- DOWN, loss of symbol lock or HELLO while the link is up loses the link. The OPEN entries of the port are answered
TARGET-LOST in ascending order, then its held requests in queue order; its entries are freed, its hold queue and send
slot emptied; it goes to FAULTED with reason LINK-LOST, or from DRAINING to DISABLED, its timers stopped, credit 0 and
no grant outstanding, with a PORT-STATE record; and the issuing pass follows for the other ports (R87, R106). Where
the link is not up, DOWN and loss of symbol lock have no effect (R98, R106). That a HELLO carried by either of its two
rows is a loss while the link is up is an inference of the model (log 5). -/
def Obligations.DownstreamLossAnswersTargetLost : Prop :=
  ∀ (s : State) (p : PortNo) (a : SymArg),
    let q := s.port p
    let lost : List Pair := (s.tt.entries.rows.filter (fun e => e.state = .opened ∧ e.port = p)).map (fun e => e.pair)
      ++ (s.hold p).map (fun r => r.pair)
    let after : PortState → FaultReason → State := fun st why => { s with
      up := (lost.map (fun pair => plainRsp pair .targetLost)).foldl Up.respond s.up
      tt := { s.tt with
        entries := s.tt.entries.map (fun e => if e.state ≠ .free ∧ e.port = p then Entry.blank else e)
        holds := s.tt.holds.set p [] }
      dp := s.dp.set p { q with
        state := st, reason := why, linkTimer := none, helloTimer := none, idleTimer := none, wakeTimer := none
        slot := [], credit := .zero, ntfGranted := false }
      ev := s.ev.hand ⟨.portState, .port p, none,
          BitVec.ofNat 32 (st.code.toNat + 16 * q.state.code.toNat + 256 * why.code.toNat), s.tb.timestamp⟩ }
    (∀ c ∈ ([.downstreamLinkLoss p .symbolLock, .downstreamLinkLoss p (.down a (symbolCheck .down a)),
        .downstreamLinkLoss p (.hello a (symbolCheck .hello a)),
        .portHelloReceived p a (symbolCheck .hello a)] : List Instr),
      (q.state = .active ∨ q.state = .parked ∨ q.state = .waking → ∃ t, exec c s = .next t
        ∧ State.Closes (State.issuingPass (after .faulted .linkLost)) t)
      ∧ (q.state = .draining → ∃ t, exec c s = .next t
        ∧ State.Closes (State.issuingPass (after .disabled .noFault)) t))
    ∧ (q.state = .disabled ∨ q.state = .linking ∨ q.state = .faulted →
        exec (.downstreamLinkLoss p .symbolLock) s = .next s
        ∧ exec (.downstreamLinkLoss p (.down a (symbolCheck .down a))) s = .next s)

/-- The idle timer of an idle ACTIVE port running out sends PARK, clears the REQ credit and parks the port; the
grant and the buffer stand and no record is made (R103). Otherwise nothing happens (log 2). -/
def Obligations.IdlePortParks : Prop :=
  ∀ (s : State) (p : PortNo),
    let q := s.port p
    let idle : Prop := q.state = .active ∧ (∀ n : EntryNo, (s.entry n).state ≠ .free → (s.entry n).port ≠ p)
      ∧ s.hold p = [] ∧ q.idleInterval ≠ 0#8
    (q.idleTimer = some 0 → idle → ∃ t, exec (.idleTimerExpiry p) s = .next t
      ∧ State.Closes { s with dp := s.dp.set p { q with
          state := .parked, idleTimer := none, credit := .zero, sent := q.sent ++ [plainSymbol .park] } } t)
    ∧ ((q.idleTimer ≠ some 0 ∨ ¬ idle) → exec (.idleTimerExpiry p) s = .next s)

/-- PORT-ENABLE by the port's state: DISABLED and FAULTED enter LINKING, with HELLO sent and both timers
started, and answer OK; DRAINING answers BUSY and every other state OK, without change (R98, R109). The last
result records the command, its status, the port and its state (R157, R159), and the write is answered with that
status. -/
def Obligations.PortEnableByState : Prop :=
  ∀ (s : State) (r : Request) (rest : List Request) (p : PortNo),
    s.mu.cmd = .idle → s.mu.queue = r :: rest → r.commandCode = some 0x10#32 → s.mu.arg.toNat = p.val →
    let q := s.port p
    let served : Status → Nat → Mu := fun status after => { s.mu with
      queue := rest, last := { command := 0x10#8, status := status, detail := BitVec.ofNat 32 (p.val + 256 * after) } }
    ∃ t, exec .portEnable s = .next t
      ∧ (q.state = .disabled ∨ q.state = .faulted → State.Closes { s with
          up := s.up.respond (plainRsp r.pair .ok)
          mu := served .ok 1
          dp := s.dp.set p { q with
            state := .linking, reason := .noFault, helloTimer := some 1000
            linkTimer := some (1000 * q.linkTimeout.toNat), idleTimer := none, wakeTimer := none
            credit := .zero, ntfGranted := false, sent := q.sent ++ [helloSymbol s.up.segId] } } t)
      ∧ (q.state = .draining → State.Closes { s with
          up := s.up.respond (plainRsp r.pair .busy), mu := served .busy 5 } t)
      ∧ (q.state = .linking ∨ q.state = .active ∨ q.state = .parked ∨ q.state = .waking → State.Closes { s with
          up := s.up.respond (plainRsp r.pair .ok), mu := served .ok q.state.code.toNat } t)

/-- PORT-DISABLE by the port's state, answered OK in every one: held requests of an ACTIVE or WAKING port are
answered ABORTED first; an ACTIVE port with entries enters DRAINING, its idle timer stopped and GRANT for NTF
with count 0 sent; one without, and a LINKING, PARKED or WAKING port, sends DOWN and is DISABLED with a
PORT-STATE record; a FAULTED one is DISABLED with a record and no DOWN; DISABLED and DRAINING do not change
(R88, R108, R110, R159). -/
def Obligations.PortDisableByState : Prop :=
  ∀ (s : State) (r : Request) (rest : List Request) (p : PortNo),
    s.mu.cmd = .idle → s.mu.queue = r :: rest → r.commandCode = some 0x11#32 → s.mu.arg.toNat = p.val →
    let q := s.port p
    let served : Nat → Mu := fun after => { s.mu with
      queue := rest, last := { command := 0x11#8, status := .ok, detail := BitVec.ofNat 32 (p.val + 256 * after) } }
    let off : Port := { q with
      state := .disabled, reason := .noFault, linkTimer := none, helloTimer := none, idleTimer := none
      wakeTimer := none, credit := .zero, ntfGranted := false }
    let event : Events := s.ev.hand ⟨.portState, .port p, none, BitVec.ofNat 32 (16 * q.state.code.toNat),
        s.tb.timestamp⟩
    let aborted : Up := (((s.hold p).map (fun h => plainRsp h.pair .aborted)).foldl Up.respond s.up).respond
      (plainRsp r.pair .ok)
    let emptied : Tt := { s.tt with holds := s.tt.holds.set p [] }
    let free : Prop := ∀ n : EntryNo, (s.entry n).state ≠ .free → (s.entry n).port ≠ p
    ∃ t, exec .portDisable s = .next t
      ∧ (q.state = .disabled ∨ q.state = .draining → State.Closes { s with
          up := s.up.respond (plainRsp r.pair .ok), mu := served q.state.code.toNat } t)
      ∧ (q.state = .linking ∨ q.state = .parked → State.Closes { s with
          up := s.up.respond (plainRsp r.pair .ok), mu := served 0, ev := event
          dp := s.dp.set p { off with sent := q.sent ++ [plainSymbol .down] } } t)
      ∧ (q.state = .faulted → State.Closes { s with
          up := s.up.respond (plainRsp r.pair .ok), mu := served 0, ev := event, dp := s.dp.set p off } t)
      ∧ (q.state = .waking ∨ (q.state = .active ∧ free) → State.Closes { s with
          up := aborted, tt := emptied, mu := served 0, ev := event
          dp := s.dp.set p { off with sent := q.sent ++ [plainSymbol .down] } } t)
      ∧ (q.state = .active → ¬ free → State.Closes { s with
          up := aborted, tt := emptied, mu := served 5
          dp := s.dp.set p { q with
            state := .draining, idleTimer := none, ntfGranted := false
            sent := q.sent ++ [grantSymbol .ntf 0#8] } } t)

/-- PORT-RESTART of a DISABLED port is answered REFUSED and changes nothing else. In any other state the OPEN
entries and then the held requests of the port are answered ABORTED, its entries freed, its hold queue and send
slot emptied, DOWN and HELLO are sent and it enters LINKING with fresh timers; the issuing pass follows for the
other ports, no PORT-STATE record is made, and the write is answered OK behind the aborts (R89, R111, R159). -/
def Obligations.PortRestartAbortsAndRelinks : Prop :=
  ∀ (s : State) (r : Request) (rest : List Request) (p : PortNo),
    s.mu.cmd = .idle → s.mu.queue = r :: rest → r.commandCode = some 0x12#32 → s.mu.arg.toNat = p.val →
    let q := s.port p
    let served : Status → Nat → Mu := fun status after => { s.mu with
      queue := rest, last := { command := 0x12#8, status := status, detail := BitVec.ofNat 32 (p.val + 256 * after) } }
    let cut : List Pair := (s.tt.entries.rows.filter (fun e => e.state = .opened ∧ e.port = p)).map (fun e => e.pair)
      ++ (s.hold p).map (fun h => h.pair)
    let restarted : State := State.issuingPass { s with
      tt := { s.tt with
        entries := s.tt.entries.map (fun e => if e.state ≠ .free ∧ e.port = p then Entry.blank else e)
        holds := s.tt.holds.set p [] }
      dp := s.dp.set p { q with
        state := .linking, reason := .noFault, helloTimer := some 1000
        linkTimer := some (1000 * q.linkTimeout.toNat), idleTimer := none, wakeTimer := none, slot := []
        credit := .zero, ntfGranted := false
        sent := q.sent ++ [plainSymbol .down, helloSymbol s.up.segId] } }
    ∃ t, exec .portRestart s = .next t
      ∧ (q.state = .disabled → State.Closes { s with
          up := s.up.respond (plainRsp r.pair .refused), mu := served .refused 0 } t)
      ∧ (q.state ≠ .disabled → State.Closes { restarted with
          up := ((cut.map (fun pair => plainRsp pair .aborted)).foldl Up.respond s.up).respond (plainRsp r.pair .ok)
          mu := served .ok 1 } t)

/-! ### The management unit -/

/-- A READ at the head of MU's queue leaves it and is answered: REFUSED when its span is not whole in the
management window, BAD-REQUEST when it covers the command word and more, LOCKED with its length and zero for
every word of a table region when it covers one and the lock is set, and else OK with every word of its span as
it stands at that one happening (R151, R153, R155). While MU runs a SEGMENT-RESET, or another request stands at
the head, nothing happens (R161, log 2). -/
def Obligations.ManagementReadAnswersWords : Prop :=
  ∀ (s : State) (r : Request) (rest : List Request),
    (s.mu.cmd = .idle → s.mu.queue = r :: rest → r.opcode = .read →
      let off := r.addr.toNat % 0x10000
      let inside : Prop := 0xFFFF0000 ≤ r.addr.toNat ∧ r.addr.toNat + r.length.toNat - 1 ≤ 0xFFFFFFFF
      let covers : (Nat → Prop) → Prop := fun test => ∃ i, i < r.length.toNat ∧ test (off + i)
      let table : Nat → Prop := fun o => (0x1000 ≤ o ∧ o ≤ 0x1241) ∨ (0x2000 ≤ o ∧ o ≤ 0x2241)
      let answered : Rsp → State := fun a => { s with up := s.up.respond a, mu := { s.mu with queue := rest } }
      1 ≤ r.length.toNat →
      ∃ t, exec .managementRead s = .next t
        ∧ (¬ inside → State.Closes (answered (plainRsp r.pair .refused)) t)
        ∧ (inside → covers (fun o => o = 0x41) → r.length.toNat ≠ 1 →
            State.Closes (answered (plainRsp r.pair .badRequest)) t)
        ∧ (inside → ¬ (covers (fun o => o = 0x41) ∧ r.length.toNat ≠ 1) → s.da.lock = true → covers table →
            ∃ ws : List Word, State.Closes (answered { pair := r.pair, status := .locked, length := r.length,
                                                       payload := ws }) t
              ∧ ws.length = r.length.toNat
              ∧ ∀ i, i < r.length.toNat → (table (off + i) → ws[i]? = some 0#32)
                ∧ (¬ table (off + i) → ws[i]? = some (s.readWord (off + i))))
        ∧ (inside → ¬ (covers (fun o => o = 0x41) ∧ r.length.toNat ≠ 1) → (s.da.lock = false ∨ ¬ covers table) →
            State.Closes (answered
              { pair := r.pair, status := .ok, length := r.length,
                payload := (List.range r.length.toNat).map (fun i => s.readWord (off + i)) }) t))
    ∧ ((s.mu.cmd ≠ .idle ∨ s.mu.queue = [] ∨ ∃ h, s.mu.queue.head? = some h ∧ h.opcode ≠ .read) →
        exec .managementRead s = .next s)

/-- A WRITE or MODIFY at the head of MU's queue that carries no command is served by a command of the table,
whichever its words select: MANAGEMENT_WRITE, STAGING_WRITE, PORT_CONFIGURATION_WRITE, EVENT_OVERFLOW_CLEAR, and
PORT_ENABLE and PORT_DISABLE for a write of an enable word (log 11). It completes whichever serves it: REFUSED
when its span is not whole in the management window, BAD-REQUEST when it covers the command word, LOCKED and
without effect when it covers a word of a table region and the lock is set, and else every word of its span is
written and it is answered with the status the writes left (R151, R153, R154, R155). -/
def Obligations.ManagementWriteChecksThenWrites : Prop :=
  ∀ (s : State) (r : Request) (rest : List Request), s.mu.cmd = .idle → s.mu.queue = r :: rest →
    r.opcode ≠ .read → r.commandCode = none → 1 ≤ r.length.toNat →
    let off := r.addr.toNat % 0x10000
    let inside : Prop := 0xFFFF0000 ≤ r.addr.toNat ∧ r.addr.toNat + r.length.toNat - 1 ≤ 0xFFFFFFFF
    let covers : (Nat → Prop) → Prop := fun test => ∃ i, i < r.length.toNat ∧ test (off + i)
    let table : Nat → Prop := fun o => (0x1000 ≤ o ∧ o ≤ 0x1241) ∨ (0x2000 ≤ o ∧ o ≤ 0x2241)
    let popped : State := { s with mu := { s.mu with queue := rest } }
    (∃ c, s.rowServes r c = true)
    ∧ ∀ c, s.rowServes r c = true → ∃ t, exec c s = .next t
      ∧ (¬ inside → State.Closes { popped with up := s.up.respond (plainRsp r.pair .refused) } t)
      ∧ (inside → covers (fun o => o = 0x41) →
          State.Closes { popped with up := s.up.respond (plainRsp r.pair .badRequest) } t)
      ∧ (inside → ¬ covers (fun o => o = 0x41) → s.da.lock = true → covers table →
          State.Closes { popped with up := s.up.respond (plainRsp r.pair .locked) } t)
      ∧ (inside → ¬ covers (fun o => o = 0x41) → (s.da.lock = false ∨ ¬ covers table) →
          State.Closes ((popped.access r).1.answer r.pair (popped.access r).2) t)

/-- An access writes the words of its span one after another in address order: a WRITE writes each word as sent,
a MODIFY writes (old AND NOT mask) OR (value AND mask) from the word as it then reads, and value AND mask alone
to the event overflow word; the status is the last one other than OK that an enable word gave; and where a
port's limit ends higher than it began, the issuing pass follows (R77, R86, R97, R121, R153, R154). -/
def Obligations.AccessWritesSpanInOrder : Prop :=
  ∀ (s : State) (r : Request), r.opcode ≠ .read → 0xFFFF0000 ≤ r.addr.toNat →
    ∃ w : Nat → State × Status, w 0 = (s, .ok)
      ∧ (∀ i, i < r.length.toNat →
          let o := r.addr.toNat % 0x10000 + i
          let old := (w i).1.readWord o
          let mask := r.payload.getD i 0#32
          let value := r.payload.getD (r.length.toNat + i) 0#32
          let v := if r.opcode = .write then r.payload.getD i 0#32
            else if o = 0x0A then value &&& mask else (old &&& ~~~ mask) ||| (value &&& mask)
          w (i + 1) = (((w i).1.writeWord o v).1,
            if ((w i).1.writeWord o v).2 = .ok then (w i).2 else ((w i).1.writeWord o v).2))
      ∧ (s.access r).2 = (w r.length.toNat).2
      ∧ ((∃ p : PortNo, (s.port p).limit.toNat < ((w r.length.toNat).1.port p).limit.toNat) →
          (s.access r).1 = (w r.length.toNat).1.issuingPass)
      ∧ ((∀ p : PortNo, ((w r.length.toNat).1.port p).limit.toNat ≤ (s.port p).limit.toNat) →
          (s.access r).1 = (w r.length.toNat).1)

/-- What each word of the map reads: the fields of the identity and command regions, of the port blocks, of the
cells, of the counters and of the table snapshot, at the places 11.4 gives them, and zero where nothing is
mapped (R52, R94, R116, R135, R152, R153).

What a written word does, by its place in the map: the segment identity, RETAIN, the divider (0 keeps it), the
mask, the overflow flag (1 clears it), the command argument, the port configuration items (a value out of range
keeps the item), the enable word (log 12 for that of a FAULTED port), and a cell's mode and hold flag. A divider written
governs the tick under way when no period of it is past, else the ticks after it. Every other word of these regions but
the command word, the counters and the snapshot are read-only, and every unmapped word ignores the write (R49, R96, R97,
R116, R152 to R154, R167, R171, R173). The codes shown are those of 11.1. -/
def Obligations.ManagementMapReadsAndWrites : Prop :=
  (∀ (s : State) (p : PortNo) (c : CellNo) (n : EntryNo) (h : TermNo) (k : Fin 10),
    let q := s.port p
    let x := s.da.cells.get c
    let e := s.entry n
    (([0x00, 0x01, 0x02, 0x03, 0x04, 0x05, 0x06, 0x07, 0x08, 0x09, 0x0A] : List Nat).map (fun o => (s.readWord o).toNat)
      = [0x464, 1, s.up.segId.toNat, s.da.rcvSrc.toNat + 256 * s.da.rcvEn.toNat, s.da.retain.toNat, s.da.lock.toNat,
         s.da.generation.toNat, s.da.active.label.toNat, s.tb.divider.toNat, s.ev.mask.toNat, s.ev.overflow.toNat])
    ∧ (([0x40, 0x41, 0x42, 0x43] : List Nat).map (fun o => (s.readWord o).toNat)
      = [s.mu.arg.toNat, 0, s.mu.last.command.toNat + 256 * s.mu.last.status.code.toNat, s.mu.last.detail.toNat])
    ∧ (((List.range 7).map (fun i => (s.readWord (0x100 + 16 * p.val + i)).toNat))
      = [if q.state = .disabled then 0 else 1, q.limit.toNat, q.respTimeout.toNat, q.idleInterval.toNat,
         q.wakeTimeout.toNat, q.linkTimeout.toNat, q.notify.toNat])
    ∧ (((List.range 7).map (fun i => (s.readWord (0x100 + 16 * p.val + 7 + i)).toNat))
      = [q.state.code.toNat + 16 * q.reason.code.toNat,
         s.tt.count p % 32 + 256 * ((s.hold p).length % 8) + 65536 * (q.slot.length % 32),
         q.credit.code.toNat + 256 * q.ntfBuf.isSome.toNat,
         q.bad.toNat, q.stray.toNat, q.late.toNat, q.discarded.toNat])
    ∧ (((List.range 8).map (fun i => (s.readWord (0x200 + 8 * c.val + i)).toNat))
      = [if x.mode = .track then 1 else 0, x.hold.toNat, x.full.toNat + 65536 * x.loads.toNat,
         x.record.pair.src.toNat + 16 * x.record.pair.tag.toNat + 1024 * x.record.opcode.code.toNat
           + 4096 * x.record.length.toNat + 1048576 * x.record.term.toNat,
         x.record.addr.toNat, x.record.outcome.code.toNat, x.record.stamp.toNat, x.record.generation.toNat])
    ∧ s.readWord (0x400 + k.val) = s.ev.decisions.get k
    ∧ (([0x410, 0x411, 0x412, 0x413] : List Nat).map s.readWord
      = [s.ev.upBad, s.ev.upBadRequest, s.ev.upTagInUse, s.ev.upLinkLoss])
    ∧ (s.readWord 0x418).toNat = s.up.egress.length % 64 ∧ (s.readWord 0x419).toNat = s.up.reservations % 64
    ∧ s.readWord (0x440 + h.val) = s.da.hits.get h
    ∧ (((List.range 4).map (fun i => (s.readWord (0x800 + 4 * n.val + i)).toNat))
      = [e.state.code.toNat + 16 * e.port.val + 256 * e.opcode.code.toNat + 65536 * e.pair.src.toNat
           + 16777216 * e.pair.tag.toNat,
         e.timer % 1048576, e.stamp.toNat, e.addr.toNat])
    ∧ (∀ o : Nat, (o < 0x242 → s.readWord (0x1000 + o) = s.da.staging.word o
        ∧ s.readWord (0x2000 + o) = s.da.active.word o))
    ∧ (∀ o : Nat, ((0x0B ≤ o ∧ o < 0x40) ∨ (0x44 ≤ o ∧ o < 0x100) ∨ (0x140 ≤ o ∧ o < 0x200) ∨ (0x240 ≤ o ∧ o < 0x400)
        ∨ (0x40A ≤ o ∧ o < 0x410) ∨ (0x414 ≤ o ∧ o < 0x418) ∨ (0x41A ≤ o ∧ o < 0x440) ∨ (0x480 ≤ o ∧ o < 0x800)
        ∨ (0x880 ≤ o ∧ o < 0x1000) ∨ (0x1242 ≤ o ∧ o < 0x2000) ∨ 0x2242 ≤ o
        ∨ (0x100 ≤ o ∧ o < 0x140 ∧ 14 ≤ o % 16)) → s.readWord o = 0#32))
  ∧ (∀ (s : State) (v : Word) (p : PortNo) (c : CellNo),
    s.writeWord 0x02 v = ({ s with up := { s.up with segId := v.extractLsb' 0 4 } }, .ok)
    ∧ s.writeWord 0x04 v = ({ s with da := { s.da with retain := v.getLsbD 0 } }, .ok)
    ∧ (v.toNat % 256 = 0 → s.writeWord 0x08 v = (s, .ok))
    ∧ (v.toNat % 256 ≠ 0 → s.writeWord 0x08 v = ({ s with tb := { s.tb with
        divider := v.extractLsb' 0 8
        tickLength := if s.tb.progress = 0 then v.extractLsb' 0 8 else s.tb.tickLength } }, .ok))
    ∧ s.writeWord 0x09 v = ({ s with ev := { s.ev with mask := v.extractLsb' 0 8 } }, .ok)
    ∧ s.writeWord 0x0A v = ({ s with ev := { s.ev with
        overflow := if v.getLsbD 0 then false else s.ev.overflow } }, .ok)
    ∧ s.writeWord 0x40 v = ({ s with mu := { s.mu with arg := v } }, .ok)
    ∧ s.writeWord (0x100 + 16 * p.val) v = (if v.getLsbD 0 then s.portEnable p else s.portDisable p)
    ∧ (∀ q : Port, (q = { s.port p with
          limit := if 1 ≤ v.toNat % 32 ∧ v.toNat % 32 ≤ 16 then v.extractLsb' 0 5 else (s.port p).limit } →
        s.writeWord (0x100 + 16 * p.val + 1) v = ({ s with dp := s.dp.set p q }, .ok))
      ∧ (q = { s.port p with
          respTimeout := if v.toNat % 65536 = 0 then (s.port p).respTimeout else v.extractLsb' 0 16 } →
        s.writeWord (0x100 + 16 * p.val + 2) v = ({ s with dp := s.dp.set p q }, .ok))
      ∧ (q = { s.port p with idleInterval := v.extractLsb' 0 8 } →
        s.writeWord (0x100 + 16 * p.val + 3) v = ({ s with dp := s.dp.set p q }, .ok))
      ∧ (q = { s.port p with
          wakeTimeout := if v.toNat % 256 = 0 then (s.port p).wakeTimeout else v.extractLsb' 0 8 } →
        s.writeWord (0x100 + 16 * p.val + 4) v = ({ s with dp := s.dp.set p q }, .ok))
      ∧ (q = { s.port p with
          linkTimeout := if v.toNat % 256 = 0 then (s.port p).linkTimeout else v.extractLsb' 0 8 } →
        s.writeWord (0x100 + 16 * p.val + 5) v = ({ s with dp := s.dp.set p q }, .ok))
      ∧ (q = { s.port p with notify := v.getLsbD 0 } →
        s.writeWord (0x100 + 16 * p.val + 6) v = ({ s with dp := s.dp.set p q }, .ok)))
    ∧ s.writeWord (0x200 + 8 * c.val) v = ({ s with da := { s.da with
        cells := s.da.cells.set c
          { s.da.cells.get c with mode := if v.getLsbD 0 then .track else .latch } } }, .ok)
    ∧ s.writeWord (0x200 + 8 * c.val + 1) v = ({ s with da := { s.da with
        cells := s.da.cells.set c { s.da.cells.get c with hold := v.getLsbD 0 } } }, .ok)
    ∧ (∀ off : Nat, (off ∉ [0x02, 0x04, 0x08, 0x09, 0x0A, 0x40, 0x41] ∧ ¬ (0x100 ≤ off ∧ off < 0x140 ∧ off % 16 ≤ 6)
          ∧ ¬ (0x200 ≤ off ∧ off < 0x240 ∧ off % 8 ≤ 1) ∧ ¬ (0x1000 ≤ off ∧ off ≤ 0x1241)) →
        s.writeWord off v = (s, .ok)))
  ∧ ([PortState.disabled, .linking, .active, .parked, .waking, .draining, .faulted].map (fun x => x.code.toNat)
      = List.range 7)
  ∧ ([FaultReason.noFault, .linkTimeout, .wakeTimeout, .linkLost].map (fun x => x.code.toNat) = List.range 4)
  ∧ ([EntryState.free, .opened, .expired].map (fun x => x.code.toNat) = List.range 3)
  ∧ ([Opcode.read, .write, .modify].map (fun x => x.code.toNat) = List.range 3)
  ∧ ([Status.ok, .refused, .conflict, .protectedAccess, .span, .noTarget, .busy, .tagInUse, .badRequest, .timeout,
      .targetLost, .aborted, .targetError, .locked, .invalidImage].map (fun x => x.code.toNat) = List.range 15)

/-- A staging word stores every field it holds exactly as written and drops the bits outside them, and no other
word of the image changes; an unlocked write of staging words is stored so (R55, R177). -/
def Obligations.StagingWordsReadBackAsWritten : Prop :=
  (∀ (s : State) (o : Nat) (v : Word), o < 0x242 →
    s.writeWord (0x1000 + o) v = ({ s with da := { s.da with staging := s.da.staging.setWord o v } }, .ok))
  ∧ ∀ (im : Image) (o o' : Nat) (v : Word), o < 0x242 → o' < 0x242 →
    let fields : Word :=
      if o < 0x200 then
        (if o % 8 = 0 then 0xC78F8707#32 else if o % 8 = 1 ∨ o % 8 = 2 ∨ o % 8 = 3 then 0xFFFFFFFF#32 else 0#32)
      else if o < 0x240 then
        (if o % 4 = 0 then 0xE000001F#32 else if o % 4 = 1 ∨ o % 4 = 2 then 0xFFFFFFFF#32 else 0#32)
      else if o = 0x240 then 0x00000007#32 else 0x0000FFFF#32
    (im.setWord o v).word o' = if o' = o then v &&& fields else im.word o'

/-- COMMIT answers LOCKED with detail 0 while the lock is set, and INVALID-IMAGE with the failing item, its index and
the reason when staging fails validation, nothing else changing, the index of a header being 0 (log 19); else the
banks swap whole, the generation goes up by one and wraps, every hit counter is cleared, a COMMIT record with the new
generation and label is handed, and the answer is OK with the new generation recorded (R57, R59 to R61, R64, R158). -/
def Obligations.CommitSwapsValidBanks : Prop :=
  (∀ (s : State) (r : Request) (rest : List Request),
    s.mu.cmd = .idle → s.mu.queue = r :: rest → r.commandCode = some 0x01#32 →
    let served : Status → Word → Mu := fun status detail => { s.mu with
      queue := rest, last := { command := 0x01#8, status := status, detail := detail } }
    ∃ t, exec .commit s = .next t
      ∧ (s.da.lock = true → State.Closes { s with
          up := s.up.respond (plainRsp r.pair .locked), mu := served .locked 0#32 } t)
      ∧ (∀ f, s.da.lock = false → s.da.staging.failure = some f → State.Closes { s with
          up := s.up.respond (plainRsp r.pair .invalidImage), mu := served .invalidImage f.detail } t)
      ∧ (s.da.lock = false → s.da.staging.failure = none →
          let gen := s.da.generation + 1
          State.Closes { s with
            up := s.up.respond (plainRsp r.pair .ok)
            mu := served .ok (gen.setWidth 32)
            da := { s.da with active := s.da.staging, staging := s.da.active, generation := gen
                              hits := Table.replicate 64 0#32 }
            ev := s.ev.hand ⟨.commit, .nowhere, some r.pair,
                BitVec.ofNat 32 (gen.toNat + 65536 * s.da.staging.label.toNat), s.tb.timestamp⟩ } t))
  ∧ (∀ why, (Failure.header why).detail.toNat = why.code.toNat + 2 ^ 24)
  ∧ (∀ n why, (Failure.term n why).detail.toNat = why.code.toNat + 2 ^ 16 * n.val + 2 * 2 ^ 24)
  ∧ (∀ n why, (Failure.window n why).detail.toNat = why.code.toNat + 2 ^ 16 * n.val + 3 * 2 ^ 24)
  ∧ [Reason.defaultSelect, .select, .opcodes, .windowInvalid, .windowNotAllowed, .cellBoth, .size, .align, .range,
      .rights].map (fun why => why.code.toNat) = [1, 2, 3, 4, 5, 6, 7, 8, 9, 10]

/-- Validation reports the first failure in the order header, terms 0 to 63, windows 0 to 15, and within an item
in the order of its checks; an image has none exactly when every condition holds (R30, R58). -/
def Obligations.ValidationNamesFirstFailure : Prop :=
  ∀ im : Image,
    let named : BitVec 3 → Prop := fun code => code.toNat ≤ 5
    let bad : TermNo → Reason → Prop := fun n why =>
      let t := im.terms.get n
      let checks : List (Prop × Reason) :=
        [(¬ named t.select, .select), (t.opcodes = 0#3, .opcodes),
         (t.windowPresent = true ∧ (im.windows.get t.window.toFin).valid = false, .windowInvalid),
         (t.windowPresent = true ∧ (t.polarity = .inhibit ∨ 4 ≤ t.select.toNat), .windowNotAllowed),
         ((∃ c : Nat, t.needFull.getLsbD c = true ∧ t.needEmpty.getLsbD c = true), .cellBoth)]
      t.valid = true ∧ ∃ before after cond, checks = before ++ (cond, why) :: after ∧ cond ∧ ∀ x ∈ before, ¬ x.1
    let broken : WindowNo → Reason → Prop := fun n why =>
      let w := im.windows.get n
      let k := w.exponent.toNat
      let checks : List (Prop × Reason) :=
        [(k < 4 ∨ 28 < k, .size), (w.base.toNat % 2 ^ k ≠ 0, .align), (2 ^ 32 < w.translated.toNat + 2 ^ k, .range),
         (w.readAllowed = false ∧ w.writeAllowed = false, .rights)]
      w.valid = true ∧ ∃ before after cond, checks = before ++ (cond, why) :: after ∧ cond ∧ ∀ x ∈ before, ¬ x.1
    (¬ named im.defaultSelect → im.failure = some (.header .defaultSelect))
    ∧ (∀ n why, im.failure = some (.term n why) ↔
        named im.defaultSelect ∧ bad n why ∧ ∀ m, m < n → ∀ y, ¬ bad m y)
    ∧ (∀ n why, im.failure = some (.window n why) ↔
        named im.defaultSelect ∧ (∀ m y, ¬ bad m y) ∧ broken n why ∧ ∀ m, m < n → ∀ y, ¬ broken m y)
    ∧ (im.failure = none ↔ named im.defaultSelect ∧ (∀ m y, ¬ bad m y) ∧ ∀ m y, ¬ broken m y)

/-- STAGING-COPY copies the active image whole into staging, or answers LOCKED without effect; LOCK sets the
lock; CLEAR-ALL, locked or not, loads the boot and empty images, clears the lock, the generation and the hit
counters, empties the cells and hands a COMMIT record; each is answered and recorded with detail 0 (R62, R63,
R64, R66, R158). -/
def Obligations.BankCommandsActWhole : Prop :=
  ∀ (s : State) (r : Request) (rest : List Request), s.mu.cmd = .idle → s.mu.queue = r :: rest →
    let served : BitVec 8 → Status → Mu := fun command status => { s.mu with
      queue := rest, last := { command := command, status := status, detail := 0#32 } }
    (r.commandCode = some 0x02#32 → ∃ t, exec .stagingCopy s = .next t
      ∧ (s.da.lock = true → State.Closes { s with
          up := s.up.respond (plainRsp r.pair .locked), mu := served 0x02#8 .locked } t)
      ∧ (s.da.lock = false → State.Closes { s with
          up := s.up.respond (plainRsp r.pair .ok), mu := served 0x02#8 .ok
          da := { s.da with staging := s.da.active } } t))
    ∧ (r.commandCode = some 0x03#32 → ∃ t, exec .lock s = .next t ∧ State.Closes { s with
        up := s.up.respond (plainRsp r.pair .ok), mu := served 0x03#8 .ok, da := { s.da with lock := true } } t)
    ∧ (r.commandCode = some 0x04#32 → ∃ t, exec .clearAll s = .next t ∧ State.Closes { s with
        up := s.up.respond (plainRsp r.pair .ok), mu := served 0x04#8 .ok
        da := { s.da with
          active := Image.boot, staging := Image.empty, lock := false, generation := 0#16
          hits := Table.replicate 64 0#32
          cells := s.da.cells.map (fun x => { x with full := false, record := .zero, loads := 0#16 }) }
        ev := s.ev.hand ⟨.commit, .nowhere, some r.pair, 0#32, s.tb.timestamp⟩ } t)

/-- CAPTURE-CLEAR empties the cells named by the low eight positions of the argument and keeps their mode and
hold flag; COUNTER-CLEAR zeroes the hit counters, the decision and upstream counters and every port's four, and
nothing else; both are answered OK, locked or not (R50, R115, R160, R172). -/
def Obligations.ClearCommandsClear : Prop :=
  ∀ (s : State) (r : Request) (rest : List Request), s.mu.cmd = .idle → s.mu.queue = r :: rest →
    let served : BitVec 8 → Word → Mu := fun command detail => { s.mu with
      queue := rest, last := { command := command, status := .ok, detail := detail } }
    (r.commandCode = some 0x20#32 → ∃ t, exec .captureClear s = .next t ∧ State.Closes { s with
      up := s.up.respond (plainRsp r.pair .ok), mu := served 0x20#8 (s.mu.arg &&& 0xFF#32)
      da := { s.da with cells := s.da.cells.imap (fun c x => if s.mu.arg.getLsbD c.val then
        { x with full := false, record := .zero, loads := 0#16 } else x) } } t)
    ∧ (r.commandCode = some 0x21#32 → ∃ t, exec .counterClear s = .next t ∧ State.Closes { s with
      up := s.up.respond (plainRsp r.pair .ok), mu := served 0x21#8 0#32
      da := { s.da with hits := Table.replicate 64 0#32 }
      ev := { s.ev with decisions := Table.replicate 10 0#32, upBad := 0#32, upBadRequest := 0#32, upTagInUse := 0#32,
                        upLinkLoss := 0#32 }
      dp := s.dp.map (fun q => { q with bad := 0#32, stray := 0#32, late := 0#32, discarded := 0#32 }) } t)

/-- A written code that names none of the ten commands, and a port command whose argument is not 0 to 3, are
answered REFUSED; the last result records no command and the code, or the command and its argument; nothing else
changes (R157, R178). A head that carries a command that is taken leaves the state (log 2).

A request carries a command when it is a WRITE or MODIFY of length 1 to the command word: the value is the word written,
or of a MODIFY value AND mask (R153, R156, R178). -/
def Obligations.UnknownCommandRefused : Prop :=
  (∀ (r : Request) (v : Word), r.commandCode = some v ↔ r.addr = 0xFFFF0041#32 ∧ r.opcode ≠ .read ∧ r.length = 1#7
    ∧ v = if r.opcode = .write then r.payload.getD 0 0#32 else r.payload.getD 1 0#32 &&& r.payload.getD 0 0#32)
  ∧ ∀ (s : State) (r : Request) (rest : List Request) (code : Word),
    s.mu.cmd = .idle → s.mu.queue = r :: rest → r.commandCode = some code →
    let known : List Word := [0x01#32, 0x02#32, 0x03#32, 0x04#32, 0x10#32, 0x11#32, 0x12#32, 0x20#32, 0x21#32, 0x30#32]
    let refused : BitVec 8 → Word → State := fun command detail => { s with
      up := s.up.respond (plainRsp r.pair .refused)
      mu := { s.mu with queue := rest, last := { command := command, status := .refused, detail := detail } } }
    (code ∉ known → ∃ t, exec .unknownCommand s = .next t ∧ State.Closes (refused 0#8 code) t)
    ∧ (code ∈ [0x10#32, 0x11#32, 0x12#32] → 4 ≤ s.mu.arg.toNat →
        ∃ t, exec .unknownCommand s = .next t ∧ State.Closes (refused (code.setWidth 8) s.mu.arg) t
          ∧ ∀ c ∈ ([.portEnable, .portDisable, .portRestart] : List Instr), exec c s = .next s)
    ∧ (code ∈ known → (code ∉ [0x10#32, 0x11#32, 0x12#32] ∨ s.mu.arg.toNat < 4) → exec .unknownCommand s = .next s)

/-- SEGMENT-RESET starts in its serving happening: MU is EXECUTING with the requests left in its queue answered
ABORTED in order and counted, the pause is set, and a counted REQ credit is withdrawn by GRANT with count 0 while the
link is UP; the write itself keeps its reservation (R146, R161).

The traffic phase answers every OPEN entry and then every held request ABORTED and counts them, frees the table, sets
the pointer to port 0 and takes every port that is not DISABLED to LINKING through DOWN and HELLO; the capture phase
empties every cell; the completion answers the write OK, records the abort count, clears the pause and makes MU IDLE.
The phases come in this order (R53, R91, R112, R146, R162, R163). EXECUTING holds the phase that comes next (log 14),
a phase that is not due leaves the state (log 2), and the last result stands from the start to the completion (log
15): three choices of the model. -/
def Obligations.SegmentResetRunsItsPhases : Prop :=
  (∀ (s : State) (r : Request) (rest : List Request),
    s.mu.cmd = .idle → s.mu.queue = r :: rest → r.commandCode = some 0x30#32 →
    let paused : Up := { s.up with pause := true }
    let withdrawn : Up := { paused with reqCredit := 0, sent := s.up.sent ++ [grantSymbol .req 0#8] }
    ∃ t, exec .segmentReset s = .next t ∧ State.Closes { s with
      up := (rest.map (fun q => plainRsp q.pair .aborted)).foldl Up.respond
        (if s.up.link = .up ∧ 0 < s.up.reqCredit then withdrawn else paused)
      mu := { s.mu with queue := [], cmd := .executing .traffic r.pair, aborts := rest.length } } t)
  ∧ (∀ (s : State) (w : Pair),
    let aborted : List Pair := (s.tt.entries.rows.filter (fun e => e.state = .opened)).map (fun e => e.pair)
      ++ (s.hold 0 ++ s.hold 1 ++ s.hold 2 ++ s.hold 3).map (fun h => h.pair)
    (s.mu.cmd = .executing .traffic w → ∃ t, exec .trafficPhase s = .next t ∧ State.Closes { s with
      up := (aborted.map (fun pair => plainRsp pair .aborted)).foldl Up.respond s.up
      tt := { entries := Table.replicate 32 Entry.blank, holds := Table.replicate 4 [], rr := 0 }
      dp := s.dp.map (fun q => if q.state = .disabled then q else { q with
        state := .linking, reason := .noFault, helloTimer := some 1000
        linkTimer := some (1000 * q.linkTimeout.toNat), idleTimer := none, wakeTimer := none, slot := []
        credit := .zero, ntfGranted := false
        sent := q.sent ++ [plainSymbol .down, helloSymbol s.up.segId] })
      mu := { s.mu with cmd := .executing .capture w, aborts := s.mu.aborts + aborted.length } } t)
    ∧ (s.mu.cmd = .executing .capture w → exec .capturePhase s = .next { s with
      da := { s.da with cells := s.da.cells.map (fun x => { x with full := false, record := .zero, loads := 0#16 }) }
      mu := { s.mu with cmd := .executing .completion w } })
    ∧ (s.mu.cmd = .executing .completion w → ∃ t, exec .segmentResetCompletion s = .next t ∧ State.Closes { s with
      up := { s.up.respond (plainRsp w .ok) with pause := false }
      mu := { s.mu with
        cmd := .idle, aborts := 0
        last := { command := 0x30#8, status := .ok, detail := BitVec.ofNat 32 (s.mu.aborts % 64) } } } t)
    ∧ ((∀ x, s.mu.cmd ≠ .executing .traffic x) → exec .trafficPhase s = .next s)
    ∧ ((∀ x, s.mu.cmd ≠ .executing .capture x) → exec .capturePhase s = .next s)
    ∧ ((∀ x, s.mu.cmd ≠ .executing .completion x) → exec .segmentResetCompletion s = .next s))

/-! ### Responses, records and symbols -/

/-- A response to a live pair joins the tail of the egress queue, releases its reservation and takes the pair out of
the live tag set, so the room does not change (R136, R140); one against a cancelled reservation is discarded (R141),
which the model takes to be one whose pair is not live (log 16), and changes nothing. -/
def Obligations.ResponseReleasesReservation : Prop :=
  ∀ (u : Up) (r : Rsp),
    (r.pair ∈ u.live → u.respond r = { u with
        egress := u.egress ++ [.rsp r], reservations := u.reservations - 1, live := u.live.erase r.pair }
      ∧ (u.Conserved → (u.respond r).room = u.room ∧ r.pair ∉ (u.respond r).live ∧ (u.respond r).Conserved))
    ∧ (r.pair ∉ u.live → u.respond r = u)

/-- EQ makes no record of a disabled kind; it queues one of an enabled kind at the tail while it holds fewer
than 8, and drops it else, setting the overflow flag and marker pending; the records queued, the mask and the
counters stand (R167, R169). -/
def Obligations.EventRecordKeptOrDropped : Prop :=
  ∀ (e : Events) (r : EventRecord),
    let enabled : Prop := e.mask.getLsbD (match r.kind with
      | .timeout => 0 | .late => 1 | .stray => 2 | .portState => 3 | .conflict => 4 | .capture => 5 | .commit => 6
      | .linkUp => 7) = true
    (¬ enabled → e.hand r = e)
    ∧ (enabled → e.queue.length < 8 → e.hand r = { e with queue := e.queue ++ [r] })
    ∧ (enabled → 8 ≤ e.queue.length → e.hand r = { e with overflow := true, marker := true })

/-- A symbol that fails its check is ignored where it is received, in every state (R125). -/
def Obligations.SymbolFailingCheckIgnored : Prop :=
  ∀ (s : State) (p : PortNo) (a : SymArg) (k : SymCheck),
    (k ≠ symbolCheck .hello a → ∀ c ∈ ([.upstreamHello a k, .upstreamLinkLoss (.hello a k), .portHelloReceived p a k,
        .downstreamLinkLoss p (.hello a k)] : List Instr), exec c s = .next s)
    ∧ (k ≠ symbolCheck .down a → ∀ c ∈ ([.upstreamLinkLoss (.down a k), .downstreamLinkLoss p (.down a k)] : List Instr),
        exec c s = .next s)
    ∧ (k ≠ symbolCheck .grant a → ∀ c ∈ ([.upstreamGrant a k, .downstreamGrantReq p a k] : List Instr),
        exec c s = .next s)
    ∧ (k ≠ symbolCheck .park a → exec (.upstreamPark a k) s = .next s)
    ∧ (k ≠ symbolCheck .wake a → exec (.upstreamWake a k) s = .next s
        ∧ exec (.readyOrWakeReceived p .wake a k) s = .next s)
    ∧ (k ≠ symbolCheck .ready a → exec (.readyOrWakeReceived p .ready a k) s = .next s)

/-! ### What every step keeps -/

/-- The law of locked banks: while the lock is set no step changes either image, the generation or the lock, but
a CLEAR-ALL or a power-on reset, which end it (R65). -/
def Obligations.LockedBanksStand : Prop :=
  (∀ (c : Instr) (s t : State), s.da.lock = true → exec c s = .next t →
    (t.da.active = s.da.active ∧ t.da.staging = s.da.staging ∧ t.da.generation = s.da.generation ∧ t.da.lock = true)
    ∨ ((c = .clearAll ∨ ∃ straps, c = .por straps) ∧ t.da.lock = false))
  ∧ (∀ (s : State) (r : Request) (rest : List Request), s.mu.cmd = .idle → s.mu.queue = r :: rest →
      r.commandCode = some 0x04#32 → ∃ t, exec .clearAll s = .next t ∧ t.da.lock = false)
  ∧ (∀ (s : State) (straps : Straps), ∃ t, exec (.por straps) s = .next t ∧ t.da.lock = false)

/-- The law of the valid active image: whatever command a step takes, a valid active image stays valid (R2). -/
def Obligations.ActiveImageStaysValid : Prop :=
  ∀ s t : State, s.da.active.Valid → step s = .next t → t.da.active.Valid

/-- The laws of egress conservation, of tag uniqueness, of reservations matching live requests and of one answer per
request: frames and reservations together stay within 40, the reservations are the live pairs, and the live pairs are,
each once, those of the requests that stand in the director (R136, R138, R140, R161).

Each pair that leaves the live set has exactly one response queued behind what stood in the egress queue, and a pair
that stays live has none; a reset and the loss of the upstream link alone end requests without an answer (R93, R147,
R148). Frames leave the head of the queue only in a step that ends no request. A frame received on the upstream link
ends none (R139). -/
def Obligations.LiveRequestsStayAccounted : Prop :=
  ∀ s t : State, s.up.Conserved → s.LiveInFlight → s.ResetHolds → step s = .next t →
    t.up.Conserved ∧ t.LiveInFlight ∧ t.ResetHolds
    ∧ ((∀ straps frame, s.pending.head? ≠ some (.por straps) ∧ s.pending.head? ≠ some (.pinReset straps)
          ∧ s.pending.head? ≠ some (.reqFrameReceived frame)
          ∧ s.pending.head? ≠ some (.upstreamRspNtfFrame frame)) →
        (s.up.link = .linking ∨ t.up.link = .up) →
        ∃ (k : Nat) (queued : List UpFrame), t.up.egress = s.up.egress.drop k ++ queued
          ∧ (k = 0 ∨ t.up.live = s.up.live)
          ∧ ∀ pair ∈ s.up.live, queued.countP (fun f => f.answers pair) = if pair ∈ t.up.live then 0 else 1)
    ∧ (∀ frame, s.pending.head? = some (.reqFrameReceived frame) ∨ s.pending.head? = some (.upstreamRspNtfFrame frame) →
        ∀ pair ∈ s.up.live, pair ∈ t.up.live)

/-- The law of entries only on live ports: every step keeps it (R90). -/
def Obligations.EntriesStayOnLivePorts : Prop :=
  ∀ s t : State, s.EntriesOnLivePorts → step s = .next t → t.EntriesOnLivePorts

/-- The law of held only when waiting, with the depths of the queues: every step keeps them (R73, R149, R169). -/
def Obligations.HeldOnlyWhenWaitingKept : Prop :=
  ∀ s t : State, s.HeldOnlyWhenWaiting → s.QueuesBounded → step s = .next t → t.HeldOnlyWhenWaiting ∧ t.QueuesBounded

/-- Every step keeps each port timer to its own state, the fault reason to FAULTED, the HELLO interval timer to
LINKING, the ranged configuration items and the length and progress of the tick under way in their ranges, and FREE
entries and EMPTY cells blank (R41, R70, R95, R96, R131, R173; the periods pass by log 17). -/
def Obligations.RegistersStayLegal : Prop :=
  ∀ s t : State, (∀ p, (s.port p).TimersBelong) → s.up.HelloRuns → s.ConfigInRange → s.FreeEntriesBlank →
    s.da.EmptyCellsZero → step s = .next t →
    (∀ p, (t.port p).TimersBelong) ∧ t.up.HelloRuns ∧ t.ConfigInRange ∧ t.FreeEntriesBlank ∧ t.da.EmptyCellsZero

/-- The state right after reset meets every law that the steps keep. -/
def Obligations.ResetMeetsEveryLaw : Prop :=
  State.reset.da.active.Valid ∧ State.reset.up.Conserved ∧ State.reset.LiveInFlight ∧ State.reset.ResetHolds
    ∧ State.reset.EntriesOnLivePorts ∧ State.reset.HeldOnlyWhenWaiting ∧ State.reset.QueuesBounded
    ∧ (∀ p, (State.reset.port p).TimersBelong) ∧ State.reset.up.HelloRuns ∧ State.reset.ConfigInRange
    ∧ State.reset.FreeEntriesBlank ∧ State.reset.da.EmptyCellsZero
end

