-- ==== Sys2Proof/Laws/Table.lean ====
section
/-! SUPPORT. What a row of a table reads after each table operation. -/
namespace Sys2Proof.Machine

theorem Table.ext_rows {α : Type} {n : Nat} {a b : Table α n} (h : a.rows = b.rows) : a = b := by
  cases a; cases b; cases h; rfl

@[simp] theorem Table.get_ofFn {α : Type} {n : Nat} (f : Fin n → α) (i : Fin n) : (Table.ofFn f).get i = f i := by
  simp [Table.get, Table.ofFn]

@[simp] theorem Table.get_replicate {α : Type} (n : Nat) (a : α) (i : Fin n) : (Table.replicate n a).get i = a := by
  simp [Table.get, Table.replicate]

@[simp] theorem Table.get_map {α β : Type} {n : Nat} (t : Table α n) (f : α → β) (i : Fin n) :
    (t.map f).get i = f (t.get i) := by
  simp [Table.get, Table.map]

@[simp] theorem Table.get_imap {α β : Type} {n : Nat} (t : Table α n) (f : Fin n → α → β) (i : Fin n) :
    (t.imap f).get i = f i (t.get i) := by
  simp [Table.imap]

@[simp] theorem Table.get_set_self {α : Type} {n : Nat} (t : Table α n) (i : Fin n) (a : α) :
    (t.set i a).get i = a := by
  simp [Table.get, Table.set]

theorem Table.get_set_of_ne {α : Type} {n : Nat} (t : Table α n) {i j : Fin n} (a : α) (h : i ≠ j) :
    (t.set i a).get j = t.get j := by
  simp [Table.get, Table.set, Fin.val_ne_of_ne h]

theorem Table.get_set {α : Type} {n : Nat} (t : Table α n) (i j : Fin n) (a : α) :
    (t.set i a).get j = if i = j then a else t.get j := by
  by_cases h : i = j
  · subst h; simp
  · simp [h, Table.get_set_of_ne]

theorem Table.get_modify {α : Type} {n : Nat} (t : Table α n) (i j : Fin n) (f : α → α) :
    (t.modify i f).get j = if i = j then f (t.get j) else t.get j := by
  rw [Table.modify, Table.get_set]
  split
  · next h => rw [h]
  · rfl

theorem Table.ext_get {α : Type} {n : Nat} {a b : Table α n} (h : ∀ i, a.get i = b.get i) : a = b := by
  apply Table.ext_rows
  apply List.ext_getElem
  · rw [a.size, b.size]
  · intro i ha hb
    exact h ⟨i, by rw [← a.size]; exact ha⟩

@[simp] theorem Table.set_set {α : Type} {n : Nat} (t : Table α n) (i : Fin n) (a b : α) :
    (t.set i a).set i b = t.set i b := by
  simp [Table.set]

@[simp] theorem Table.set_get {α : Type} {n : Nat} (t : Table α n) (i : Fin n) : t.set i (t.get i) = t := by
  apply Table.ext_rows
  simp [Table.set, Table.get]

theorem Table.mem_rows {α : Type} {n : Nat} {t : Table α n} {x : α} : x ∈ t.rows ↔ ∃ i, t.get i = x := by
  constructor
  · intro hx
    obtain ⟨i, hi, rfl⟩ := List.mem_iff_getElem.mp hx
    exact ⟨⟨i, by rw [← t.size]; exact hi⟩, rfl⟩
  · rintro ⟨i, rfl⟩
    exact List.getElem_mem _

end Sys2Proof.Machine
end

