-- ==== Sys2Proof/Laws/State.lean ====
section
/-! SUPPORT. One lemma per field per update of the state, and what a port reads after a change of the ports. -/
namespace Sys2Proof.Machine

section modUp
variable (s : State) (f : Up → Up)
@[simp] theorem State.modUp_up : (s.modUp f).up = f s.up := rfl
@[simp] theorem State.modUp_da : (s.modUp f).da = s.da := rfl
@[simp] theorem State.modUp_tt : (s.modUp f).tt = s.tt := rfl
@[simp] theorem State.modUp_dp : (s.modUp f).dp = s.dp := rfl
@[simp] theorem State.modUp_mu : (s.modUp f).mu = s.mu := rfl
@[simp] theorem State.modUp_ev : (s.modUp f).ev = s.ev := rfl
@[simp] theorem State.modUp_tb : (s.modUp f).tb = s.tb := rfl
@[simp] theorem State.modUp_pending : (s.modUp f).pending = s.pending := rfl
end modUp

section modDa
variable (s : State) (f : Da → Da)
@[simp] theorem State.modDa_up : (s.modDa f).up = s.up := rfl
@[simp] theorem State.modDa_da : (s.modDa f).da = f s.da := rfl
@[simp] theorem State.modDa_tt : (s.modDa f).tt = s.tt := rfl
@[simp] theorem State.modDa_dp : (s.modDa f).dp = s.dp := rfl
@[simp] theorem State.modDa_mu : (s.modDa f).mu = s.mu := rfl
@[simp] theorem State.modDa_ev : (s.modDa f).ev = s.ev := rfl
@[simp] theorem State.modDa_tb : (s.modDa f).tb = s.tb := rfl
@[simp] theorem State.modDa_pending : (s.modDa f).pending = s.pending := rfl
end modDa

section modTt
variable (s : State) (f : Tt → Tt)
@[simp] theorem State.modTt_up : (s.modTt f).up = s.up := rfl
@[simp] theorem State.modTt_da : (s.modTt f).da = s.da := rfl
@[simp] theorem State.modTt_tt : (s.modTt f).tt = f s.tt := rfl
@[simp] theorem State.modTt_dp : (s.modTt f).dp = s.dp := rfl
@[simp] theorem State.modTt_mu : (s.modTt f).mu = s.mu := rfl
@[simp] theorem State.modTt_ev : (s.modTt f).ev = s.ev := rfl
@[simp] theorem State.modTt_tb : (s.modTt f).tb = s.tb := rfl
@[simp] theorem State.modTt_pending : (s.modTt f).pending = s.pending := rfl
end modTt

section modMu
variable (s : State) (f : Mu → Mu)
@[simp] theorem State.modMu_up : (s.modMu f).up = s.up := rfl
@[simp] theorem State.modMu_da : (s.modMu f).da = s.da := rfl
@[simp] theorem State.modMu_tt : (s.modMu f).tt = s.tt := rfl
@[simp] theorem State.modMu_dp : (s.modMu f).dp = s.dp := rfl
@[simp] theorem State.modMu_mu : (s.modMu f).mu = f s.mu := rfl
@[simp] theorem State.modMu_ev : (s.modMu f).ev = s.ev := rfl
@[simp] theorem State.modMu_tb : (s.modMu f).tb = s.tb := rfl
@[simp] theorem State.modMu_pending : (s.modMu f).pending = s.pending := rfl
end modMu

section modEv
variable (s : State) (f : Events → Events)
@[simp] theorem State.modEv_up : (s.modEv f).up = s.up := rfl
@[simp] theorem State.modEv_da : (s.modEv f).da = s.da := rfl
@[simp] theorem State.modEv_tt : (s.modEv f).tt = s.tt := rfl
@[simp] theorem State.modEv_dp : (s.modEv f).dp = s.dp := rfl
@[simp] theorem State.modEv_mu : (s.modEv f).mu = s.mu := rfl
@[simp] theorem State.modEv_ev : (s.modEv f).ev = f s.ev := rfl
@[simp] theorem State.modEv_tb : (s.modEv f).tb = s.tb := rfl
@[simp] theorem State.modEv_pending : (s.modEv f).pending = s.pending := rfl
end modEv

section modTb
variable (s : State) (f : Timebase → Timebase)
@[simp] theorem State.modTb_up : (s.modTb f).up = s.up := rfl
@[simp] theorem State.modTb_da : (s.modTb f).da = s.da := rfl
@[simp] theorem State.modTb_tt : (s.modTb f).tt = s.tt := rfl
@[simp] theorem State.modTb_dp : (s.modTb f).dp = s.dp := rfl
@[simp] theorem State.modTb_mu : (s.modTb f).mu = s.mu := rfl
@[simp] theorem State.modTb_ev : (s.modTb f).ev = s.ev := rfl
@[simp] theorem State.modTb_tb : (s.modTb f).tb = f s.tb := rfl
@[simp] theorem State.modTb_pending : (s.modTb f).pending = s.pending := rfl
end modTb

section modPort
variable (s : State) (p : PortNo) (f : Port → Port)
@[simp] theorem State.modPort_up : (s.modPort p f).up = s.up := rfl
@[simp] theorem State.modPort_da : (s.modPort p f).da = s.da := rfl
@[simp] theorem State.modPort_tt : (s.modPort p f).tt = s.tt := rfl
@[simp] theorem State.modPort_dp : (s.modPort p f).dp = s.dp.modify p f := rfl
@[simp] theorem State.modPort_mu : (s.modPort p f).mu = s.mu := rfl
@[simp] theorem State.modPort_ev : (s.modPort p f).ev = s.ev := rfl
@[simp] theorem State.modPort_tb : (s.modPort p f).tb = s.tb := rfl
@[simp] theorem State.modPort_pending : (s.modPort p f).pending = s.pending := rfl
end modPort

section modPorts
variable (s : State) (f : Port → Port)
@[simp] theorem State.modPorts_up : (s.modPorts f).up = s.up := rfl
@[simp] theorem State.modPorts_da : (s.modPorts f).da = s.da := rfl
@[simp] theorem State.modPorts_tt : (s.modPorts f).tt = s.tt := rfl
@[simp] theorem State.modPorts_dp : (s.modPorts f).dp = s.dp.map f := rfl
@[simp] theorem State.modPorts_mu : (s.modPorts f).mu = s.mu := rfl
@[simp] theorem State.modPorts_ev : (s.modPorts f).ev = s.ev := rfl
@[simp] theorem State.modPorts_tb : (s.modPorts f).tb = s.tb := rfl
@[simp] theorem State.modPorts_pending : (s.modPorts f).pending = s.pending := rfl
end modPorts

/-! ### What a port, a hold queue and an entry read -/

theorem State.modPort_port (s : State) (p q : PortNo) (f : Port → Port) :
    (s.modPort p f).port q = if p = q then f (s.port q) else s.port q := Table.get_modify ..

@[simp] theorem State.modPort_port_self (s : State) (p : PortNo) (f : Port → Port) :
    (s.modPort p f).port p = f (s.port p) := by simp [State.modPort_port]

@[simp] theorem State.modPorts_port (s : State) (p : PortNo) (f : Port → Port) :
    (s.modPorts f).port p = f (s.port p) := by simp [State.port]

@[simp] theorem State.modUp_port (s : State) (f : Up → Up) (p : PortNo) : (s.modUp f).port p = s.port p := rfl
@[simp] theorem State.modDa_port (s : State) (f : Da → Da) (p : PortNo) : (s.modDa f).port p = s.port p := rfl
@[simp] theorem State.modTt_port (s : State) (f : Tt → Tt) (p : PortNo) : (s.modTt f).port p = s.port p := rfl
@[simp] theorem State.modMu_port (s : State) (f : Mu → Mu) (p : PortNo) : (s.modMu f).port p = s.port p := rfl
@[simp] theorem State.modEv_port (s : State) (f : Events → Events) (p : PortNo) : (s.modEv f).port p = s.port p := rfl
@[simp] theorem State.modTb_port (s : State) (f : Timebase → Timebase) (p : PortNo) :
    (s.modTb f).port p = s.port p := rfl

@[simp] theorem State.modUp_hold (s : State) (f : Up → Up) (p : PortNo) : (s.modUp f).hold p = s.hold p := rfl
@[simp] theorem State.modDa_hold (s : State) (f : Da → Da) (p : PortNo) : (s.modDa f).hold p = s.hold p := rfl
@[simp] theorem State.modMu_hold (s : State) (f : Mu → Mu) (p : PortNo) : (s.modMu f).hold p = s.hold p := rfl
@[simp] theorem State.modEv_hold (s : State) (f : Events → Events) (p : PortNo) : (s.modEv f).hold p = s.hold p := rfl
@[simp] theorem State.modPort_hold (s : State) (q : PortNo) (f : Port → Port) (p : PortNo) :
    (s.modPort q f).hold p = s.hold p := rfl

@[simp] theorem State.modUp_entry (s : State) (f : Up → Up) (n : EntryNo) : (s.modUp f).entry n = s.entry n := rfl
@[simp] theorem State.modDa_entry (s : State) (f : Da → Da) (n : EntryNo) : (s.modDa f).entry n = s.entry n := rfl
@[simp] theorem State.modMu_entry (s : State) (f : Mu → Mu) (n : EntryNo) : (s.modMu f).entry n = s.entry n := rfl
@[simp] theorem State.modEv_entry (s : State) (f : Events → Events) (n : EntryNo) :
    (s.modEv f).entry n = s.entry n := rfl
@[simp] theorem State.modPort_entry (s : State) (p : PortNo) (f : Port → Port) (n : EntryNo) :
    (s.modPort p f).entry n = s.entry n := rfl

end Sys2Proof.Machine
end

