-- ==== Sys2Proof/Laws/Issue.lean ====
section
/-! SUPPORT. The issuing pass, once: one round, the end of the pass, and what holds of every state it goes through. -/
namespace Sys2Proof.Machine

/-- The state one round makes: the head of hold queue `p` issued into entry `n`, the pointer past `p`. -/
def State.issued (s : State) (n : EntryNo) (p : PortNo) (r : Request) (rest : List Request) : State :=
  { s with
    tt := { s.tt with
      entries := s.tt.entries.set n (s.issuedEntry p r)
      holds := s.tt.holds.set p rest
      rr := p + 1 }
    dp := s.dp.set p { s.port p with slot := (s.port p).slot ++ [s.issuedItem n r] } }

theorem State.issueHeld_cons {s : State} {n : EntryNo} {p : PortNo} {r : Request} {rest : List Request}
    (h : s.hold p = r :: rest) : s.issueHeld n p = s.issued n p r rest := by
  unfold State.issueHeld
  rw [h]
  rfl

/-- The entries that are FREE, counted. -/
def Tt.freeCount (t : Tt) : Nat := t.entries.rows.countP (fun e => e.state = .free)

theorem Tt.lowestFree_eq_none {t : Tt} : t.lowestFree = none ↔ ∀ n : EntryNo, (t.entries.get n).state ≠ .free := by
  simp [Tt.lowestFree]

theorem Tt.freeCount_eq_zero {t : Tt} (h : t.freeCount = 0) : t.lowestFree = none := by
  rw [Tt.lowestFree_eq_none]
  intro n hn
  rw [Tt.freeCount, List.countP_eq_zero] at h
  exact h _ (Table.mem_rows.2 ⟨n, rfl⟩) (by simpa using hn)

/-- The first of a list of ordered indices that satisfies a test. -/
theorem find?_finRange {k : Nat} {f : Fin k → Bool} {n : Fin k} :
    (List.finRange k).find? f = some n ↔ f n = true ∧ ∀ m, m < n → f m = false := by
  rw [List.find?_eq_some_iff_append]
  constructor
  · rintro ⟨hn, as, bs, heq, hbefore⟩
    refine ⟨hn, fun m hm => ?_⟩
    have hmem : m ∈ as ++ n :: bs := heq ▸ List.mem_finRange m
    have hsorted : (as ++ n :: bs).Pairwise (· < ·) := heq ▸ List.pairwise_lt_finRange k
    rcases List.mem_append.1 hmem with h | h
    · simpa using hbefore m h
    · rcases List.mem_cons.1 h with h | h
      · omega
      · have := (List.pairwise_cons.1 (List.pairwise_append.1 hsorted).2.1).1 m h
        omega
  · rintro ⟨hn, hbefore⟩
    obtain ⟨as, bs, heq⟩ := List.append_of_mem (List.mem_finRange n)
    refine ⟨hn, as, bs, heq, fun m hm => ?_⟩
    have hsorted : (as ++ n :: bs).Pairwise (· < ·) := heq ▸ List.pairwise_lt_finRange k
    simpa using hbefore m ((List.pairwise_append.1 hsorted).2.2 m hm n (by simp))

theorem Tt.lowestFree_eq_some {t : Tt} {n : EntryNo} :
    t.lowestFree = some n ↔ (t.entries.get n).state = .free ∧ ∀ m, m < n → (t.entries.get m).state ≠ .free := by
  simp [Tt.lowestFree, find?_finRange]

theorem countP_set_of_true {α : Type} {f : α → Bool} {l : List α} {i : Nat} {a : α} (h : i < l.length)
    (hold : f l[i] = true) (hnew : f a = false) : (l.set i a).countP f + 1 = l.countP f := by
  induction l generalizing i with
  | nil => simp at h
  | cons x xs ih =>
    cases i with
    | zero => simp only [List.getElem_cons_zero] at hold; simp [hold, hnew]
    | succ i =>
      simp only [List.getElem_cons_succ] at hold
      have := ih (i := i) (by simpa using h) hold
      simp only [List.set_cons_succ, List.countP_cons]
      omega

/-- Each round uses up a FREE entry. -/
theorem State.issued_freeCount {s : State} {n : EntryNo} (p : PortNo) (r : Request) (rest : List Request)
    (h : s.tt.lowestFree = some n) : (s.issued n p r rest).tt.freeCount + 1 = s.tt.freeCount := by
  have hn : n.val < s.tt.entries.rows.length := by rw [s.tt.entries.size]; exact n.isLt
  refine countP_set_of_true hn ?_ (by simp [State.issuedEntry])
  exact decide_eq_true (Tt.lowestFree_eq_some.1 h).1

theorem State.eligible_iff {s : State} {p : PortNo} :
    s.eligible p = true ↔ (s.port p).state = .active ∧ s.hold p ≠ [] ∧ s.tt.count p < (s.port p).limit.toNat := by
  simp [State.eligible, State.belowLimit, and_assoc]

theorem mem_portsFrom (p q : PortNo) : q ∈ portsFrom p := by revert p q; decide

theorem State.arbiterChoice_eq_none {s : State} : s.arbiterChoice = none ↔ ∀ p, s.eligible p = false := by
  simp [State.arbiterChoice, mem_portsFrom]

theorem State.eligible_of_choice {s : State} {p : PortNo} (h : s.arbiterChoice = some p) : s.eligible p = true :=
  List.find?_some h

/-- A round that has a port and an entry. -/
theorem State.passRounds_succ {s : State} {n : EntryNo} {p : PortNo} {r : Request} {rest : List Request} (k : Nat)
    (hp : s.arbiterChoice = some p) (hn : s.tt.lowestFree = some n) (hr : s.hold p = r :: rest) :
    State.passRounds (k + 1) s = State.passRounds k (s.issued n p r rest) := by
  rw [State.passRounds, hp, hn]
  simp only [State.issueHeld_cons hr]

/-- A round that lacks one of them ends the pass. -/
theorem State.passRounds_stop {s : State} (k : Nat) (h : s.arbiterChoice = none ∨ s.tt.lowestFree = none) :
    State.passRounds k s = s := by
  cases k with
  | zero => rfl
  | succ k =>
    rw [State.passRounds]
    rcases h with h | h
    · rw [h]
    · rw [h]
      cases s.arbiterChoice <;> rfl

/-- A state either ends the pass or has a round to make. -/
theorem State.round_or_stop (s : State) : (s.arbiterChoice = none ∨ s.tt.lowestFree = none)
    ∨ ∃ p n r rest, s.arbiterChoice = some p ∧ s.tt.lowestFree = some n ∧ s.hold p = r :: rest := by
  cases hp : s.arbiterChoice with
  | none => exact .inl (.inl rfl)
  | some p =>
    cases hn : s.tt.lowestFree with
    | none => exact .inl (.inr rfl)
    | some n =>
      have hold := (State.eligible_iff.1 (State.eligible_of_choice hp)).2.1
      cases hr : s.hold p with
      | nil => exact absurd hr hold
      | cons r rest => exact .inr ⟨p, n, r, rest, rfl, rfl, hr⟩

/-- More rounds than FREE entries change nothing. -/
theorem State.passRounds_enough {s : State} {k : Nat} (h : s.tt.freeCount ≤ k) :
    State.passRounds (k + 1) s = State.passRounds k s := by
  induction k generalizing s with
  | zero =>
    have hs := Tt.freeCount_eq_zero (Nat.le_zero.1 h)
    rw [State.passRounds_stop _ (.inr hs), State.passRounds_stop _ (.inr hs)]
  | succ k ih =>
    rcases s.round_or_stop with hs | ⟨p, n, r, rest, hp, hn, hr⟩
    · rw [State.passRounds_stop _ hs, State.passRounds_stop _ hs]
    · rw [State.passRounds_succ _ hp hn hr, State.passRounds_succ _ hp hn hr, ih]
      have := State.issued_freeCount p r rest hn
      omega

/-- With rounds enough the pass ends where no port is eligible or no entry FREE. -/
theorem State.passRounds_ends {s : State} {k : Nat} (h : s.tt.freeCount ≤ k) :
    (State.passRounds k s).arbiterChoice = none ∨ (State.passRounds k s).tt.lowestFree = none := by
  induction k generalizing s with
  | zero => exact .inr (Tt.freeCount_eq_zero (Nat.le_zero.1 h))
  | succ k ih =>
    rcases s.round_or_stop with hs | ⟨p, n, r, rest, hp, hn, hr⟩
    · rw [State.passRounds_stop _ hs]; exact hs
    · rw [State.passRounds_succ _ hp hn hr]
      apply ih
      have := State.issued_freeCount p r rest hn
      omega

theorem Tt.freeCount_le (t : Tt) : t.freeCount ≤ 32 := by
  have h : t.freeCount ≤ t.entries.rows.length := List.countP_le_length
  rwa [t.entries.size] at h

/-- What holds at the start and is kept by every round holds after any number of rounds. -/
theorem State.passRounds_induction {P : State → Prop} {s : State} {k : Nat} (h0 : P s)
    (hstep : ∀ (s : State) (p : PortNo) (n : EntryNo) (r : Request) (rest : List Request), P s → s.eligible p = true →
      s.tt.lowestFree = some n → s.hold p = r :: rest → P (s.issued n p r rest)) : P (State.passRounds k s) := by
  induction k generalizing s with
  | zero => exact h0
  | succ k ih =>
    rcases s.round_or_stop with hs | ⟨p, n, r, rest, hp, hn, hr⟩
    · rw [State.passRounds_stop _ hs]; exact h0
    · rw [State.passRounds_succ _ hp hn hr]
      exact ih (hstep s p n r rest h0 (State.eligible_of_choice hp) hn hr)

/-- What the issuing pass leaves as it was: everything but TT and the send slots. -/
theorem State.issuingPass_frame (s : State) : s.issuingPass.up = s.up ∧ s.issuingPass.da = s.da
    ∧ s.issuingPass.mu = s.mu ∧ s.issuingPass.ev = s.ev ∧ s.issuingPass.tb = s.tb
    ∧ s.issuingPass.pending = s.pending
    ∧ ∀ p : PortNo, s.issuingPass.port p = { s.port p with slot := (s.issuingPass.port p).slot } := by
  refine State.passRounds_induction (P := fun t => t.up = s.up ∧ t.da = s.da ∧ t.mu = s.mu ∧ t.ev = s.ev ∧ t.tb = s.tb
    ∧ t.pending = s.pending ∧ ∀ p : PortNo, t.port p = { s.port p with slot := (t.port p).slot })
    ⟨rfl, rfl, rfl, rfl, rfl, rfl, fun _ => rfl⟩ ?_
  rintro t p n r rest ⟨h1, h2, h3, h4, h5, h6, h7⟩ - - -
  refine ⟨h1, h2, h3, h4, h5, h6, fun q => ?_⟩
  have hq : (t.issued n p r rest).port q = if p = q then
      { t.port p with slot := (t.port p).slot ++ [t.issuedItem n r] } else t.port q := Table.get_set ..
  rw [hq]
  split
  · next h => subst h; rw [h7 p]
  · exact h7 q

end Sys2Proof.Machine
end

