-- ==== Sys2Proof/Laws/Bits.lean ====
section
/-! SUPPORT. Fields of a word: what a field at bit 0 is, what a field is worth, and words built of disjoint fields. -/
namespace Sys2Proof.Machine

@[simp] theorem fieldAt_zero {k : Nat} (v : BitVec k) : fieldAt v 0 = v.setWidth 32 := by
  simp [fieldAt]

/-- A field that fits its place is worth its value times the place's weight. -/
theorem fieldAt_toNat {k : Nat} (v : BitVec k) (lo : Nat) (h : k + lo ≤ 32) :
    (fieldAt v lo).toNat = v.toNat * 2 ^ lo := by
  have hv := v.isLt
  have hk : 2 ^ k ≤ 2 ^ 32 := Nat.pow_le_pow_right (by omega) (by omega)
  have hm : v.toNat * 2 ^ lo < 2 ^ 32 :=
    calc v.toNat * 2 ^ lo < 2 ^ k * 2 ^ lo := Nat.mul_lt_mul_of_pos_right hv (Nat.two_pow_pos lo)
      _ = 2 ^ (k + lo) := (Nat.pow_add 2 k lo).symm
      _ ≤ 2 ^ 32 := Nat.pow_le_pow_right (by omega) h
  simp only [fieldAt, BitVec.toNat_shiftLeft, BitVec.toNat_setWidth, Nat.shiftLeft_eq]
  rw [Nat.mod_eq_of_lt (a := v.toNat) (by omega), Nat.mod_eq_of_lt hm]

/-- A word below bit `lo` and a field at `lo` do not overlap: joined, their values add. -/
theorem or_fieldAt_toNat {k : Nat} (w : Word) (v : BitVec k) (lo : Nat) (h : k + lo ≤ 32) (hw : w.toNat < 2 ^ lo) :
    (w ||| fieldAt v lo).toNat = w.toNat + v.toNat * 2 ^ lo := by
  rw [BitVec.toNat_or, fieldAt_toNat v lo h, Nat.or_comm, Nat.mul_comm, ← Nat.two_pow_add_eq_or_of_lt hw]
  omega

@[simp] theorem countAt_toNat (k n lo : Nat) (h : k + lo ≤ 32) : (countAt k n lo).toNat = n % 2 ^ k * 2 ^ lo := by
  rw [countAt, fieldAt_toNat _ _ h, BitVec.toNat_ofNat]

@[simp] theorem flagAt_toNat (b : Bool) (i : Nat) (h : i < 32) : (flagAt b i).toNat = b.toNat * 2 ^ i := by
  rw [flagAt, fieldAt_toNat _ _ (by omega), BitVec.toNat_ofBool]

end Sys2Proof.Machine
end

