-- ==== Sys2Proof/Laws/Ops.lean ====
section
/-! SUPPORT. The shared operations, each once: what it answers, and that it leaves the rest. -/
namespace Sys2Proof.Machine

/-! ### UP -/

theorem Up.respond_live {u : Up} {r : Rsp} (h : r.pair ∈ u.live) : u.respond r =
    { u with egress := u.egress ++ [.rsp r], reservations := u.reservations - 1, live := u.live.erase r.pair } :=
  if_pos h

theorem Up.respond_dead {u : Up} {r : Rsp} (h : r.pair ∉ u.live) : u.respond r = u := if_neg h

/-- A response changes the queue, the reservations and the live set alone. -/
theorem Up.respond_frame (u : Up) (r : Rsp) : u.respond r = { u with
    egress := (u.respond r).egress, reservations := (u.respond r).reservations, live := (u.respond r).live } := by
  unfold Up.respond
  split <;> rfl

theorem Up.foldl_respond_frame (rs : List Rsp) (u : Up) : rs.foldl Up.respond u = { u with
    egress := (rs.foldl Up.respond u).egress, reservations := (rs.foldl Up.respond u).reservations
    live := (rs.foldl Up.respond u).live } := by
  induction rs generalizing u with
  | nil => rfl
  | cons r rs ih =>
    rw [List.foldl_cons, ih, u.respond_frame]

/-- Answers to several requests are responses taken in turn, and nothing else. -/
theorem State.answerAll_eq (s : State) (pairs : List Pair) (status : Status) : s.answerAll pairs status =
    { s with up := (pairs.map (fun pair => plainRsp pair status)).foldl Up.respond s.up } := by
  rw [List.foldl_map]
  rfl

theorem State.answerHold_eq (s : State) (p : PortNo) (status : Status) : s.answerHold p status = { s with
    up := ((s.hold p).map (fun r => plainRsp r.pair status)).foldl Up.respond s.up
    tt := { s.tt with holds := s.tt.holds.set p [] } } := by
  rw [State.answerHold, State.answerAll_eq, List.map_map]
  rfl

/-! ### EQ -/

theorem Events.hand_masked {e : Events} {r : EventRecord} (h : e.mask.getLsbD r.kind.code.toNat = false) :
    e.hand r = e := by
  simp [Events.hand, h]

theorem Events.hand_kept {e : Events} {r : EventRecord} (h : e.mask.getLsbD r.kind.code.toNat = true)
    (hl : e.queue.length < 8) : e.hand r = { e with queue := e.queue ++ [r] } := by
  simp [Events.hand, h, Config.eventPlaces, hl]

theorem Events.hand_dropped {e : Events} {r : EventRecord} (h : e.mask.getLsbD r.kind.code.toNat = true)
    (hl : 8 ≤ e.queue.length) : e.hand r = { e with overflow := true, marker := true } := by
  simp [Events.hand, h, Config.eventPlaces, Nat.not_lt.2 hl]

/-- A record handed changes the queue, the overflow flag and the marker alone. -/
theorem Events.hand_frame (e : Events) (r : EventRecord) : e.hand r = { e with
    queue := (e.hand r).queue, overflow := (e.hand r).overflow, marker := (e.hand r).marker } := by
  unfold Events.hand
  split
  · split <;> rfl
  · rfl

/-- Handing keeps the depth of the event queue. -/
theorem Events.hand_length {e : Events} (r : EventRecord) (h : e.queue.length ≤ 8) : (e.hand r).queue.length ≤ 8 := by
  unfold Events.hand
  split
  · split
    · next h' => simp only [Config.eventPlaces] at h'; simp; omega
    · exact h
  · exact h

/-! ### Ports -/

/-- The detail of a PORT-STATE record as a number. -/
theorem portStateDetail_eq (new left : PortState) (why : FaultReason) : portStateDetail new left why =
    BitVec.ofNat 32 (new.code.toNat + 16 * left.code.toNat + 256 * why.code.toNat) := by
  cases new <;> cases left <;> cases why <;> rfl

/-- A change of port state with its record. -/
theorem State.movePort_eq (s : State) (p : PortNo) (f : Port → Port) : s.movePort p f = { s with
    dp := s.dp.set p (f (s.port p))
    ev := s.ev.hand ⟨.portState, .port p, none, BitVec.ofNat 32 ((f (s.port p)).state.code.toNat
      + 16 * (s.port p).state.code.toNat + 256 * (f (s.port p)).reason.code.toNat), s.tb.timestamp⟩ } := by
  simp only [State.movePort, portStateDetail_eq, State.modPort_port_self]
  rfl

/-! ### TT -/

theorem Tt.count_eq_zero {t : Tt} {p : PortNo} :
    t.count p = 0 ↔ ∀ n : EntryNo, (t.entries.get n).state ≠ .free → (t.entries.get n).port ≠ p := by
  rw [Tt.count, List.countP_eq_zero]
  constructor
  · intro h n hn hp
    have := h (t.entries.get n) (Table.mem_rows.2 ⟨n, rfl⟩)
    simp [Entry.names, hn, hp] at this
  · intro h e he
    obtain ⟨n, rfl⟩ := Table.mem_rows.1 he
    have := h n
    simp only [Entry.names]
    simpa using this

/-- A port cut: its OPEN entries and then its held requests answered, its entries freed, its hold queue and send slot
emptied. -/
theorem State.cutPort_eq (s : State) (p : PortNo) (status : Status) : s.cutPort p status = { s with
    up := (((s.tt.entries.rows.filter (fun e => e.state = .opened ∧ e.port = p)).map (fun e => e.pair)
      ++ (s.hold p).map (fun r => r.pair)).map (fun pair => plainRsp pair status)).foldl Up.respond s.up
    tt := { s.tt with
      entries := s.tt.entries.map (fun e => if e.state ≠ .free ∧ e.port = p then Entry.blank else e)
      holds := s.tt.holds.set p [] }
    dp := s.dp.set p { s.port p with slot := [] } } := by
  have h1 : s.tt.openPairs (fun e => e.port = p)
      = (s.tt.entries.rows.filter (fun e => e.state = .opened ∧ e.port = p)).map (fun e => e.pair) := by
    simp [Tt.openPairs]
  have h2 : (s.tt.freePort p).entries
      = s.tt.entries.map (fun e => if e.state ≠ .free ∧ e.port = p then Entry.blank else e) := by
    simp [Tt.freePort, Entry.names]
  rw [State.cutPort, State.answerAll_eq, State.answerHold_eq, h1, ← h2, List.map_append, List.foldl_append,
    List.map_map, List.map_map]
  rfl

theorem State.finishDrain_done {s : State} {p : PortNo} (h : (s.port p).state = .draining) (h0 : s.tt.count p = 0) :
    s.finishDrain p = s.movePort p (fun q => (q.put (plainSymbol .down)).enterDisabled) := if_pos ⟨h, h0⟩

theorem State.finishDrain_state {s : State} {p : PortNo} (h : (s.port p).state ≠ .draining) : s.finishDrain p = s :=
  if_neg (fun hc => h hc.1)

theorem State.finishDrain_count {s : State} {p : PortNo} (h : s.tt.count p ≠ 0) : s.finishDrain p = s :=
  if_neg (fun hc => h hc.2)

/-- The end of a drain changes port `p` and hands a record, and nothing else. -/
theorem State.finishDrain_frame (s : State) (p : PortNo) : (s.finishDrain p).up = s.up ∧ (s.finishDrain p).da = s.da
    ∧ (s.finishDrain p).tt = s.tt ∧ (s.finishDrain p).mu = s.mu ∧ (s.finishDrain p).tb = s.tb
    ∧ (s.finishDrain p).pending = s.pending := by
  unfold State.finishDrain
  split
  · rw [State.movePort_eq]; exact ⟨rfl, rfl, rfl, rfl, rfl, rfl⟩
  · exact ⟨rfl, rfl, rfl, rfl, rfl, rfl⟩

end Sys2Proof.Machine
end

