-- ==== Sys2Proof/Laws/Settle.lean ====
section
/-! SUPPORT. The end of a happening, once: `State.settle` closes every state it is given. -/
namespace Sys2Proof.Machine

/-- What a run of claims may change. -/
structure Claims (m t : State) : Prop where
  da : t.da = m.da
  tt : t.tt = m.tt
  mu : t.mu = m.mu
  tb : t.tb = m.tb
  pending : t.pending = m.pending
  up : t.up = { m.up with egress := t.up.egress, claim := t.up.claim }
  claimed : ∃ ns : List Ntf, t.up.egress = m.up.egress ++ ns.map UpFrame.ntf ∧ ns.length ≤ m.up.room
    ∧ (ns = [] ∨ m.up.link = .up)
  ev : t.ev = { m.ev with queue := t.ev.queue, marker := t.ev.marker }
  records : ∃ k, t.ev.queue = m.ev.queue.drop k ∧ k ≤ m.ev.queue.length
    ∧ t.ev.marker = (if k = 0 then m.ev.marker else false)
  port : ∀ p : PortNo, t.port p = { m.port p with ntfBuf := (t.port p).ntfBuf }
  buffer : ∀ p : PortNo, (t.port p).ntfBuf = (m.port p).ntfBuf ∨ (t.port p).ntfBuf = none

theorem Claims.refl (m : State) : Claims m m where
  da := rfl
  tt := rfl
  mu := rfl
  tb := rfl
  pending := rfl
  up := rfl
  claimed := ⟨[], by simp, by simp, .inl rfl⟩
  ev := rfl
  records := ⟨0, by simp⟩
  port _ := rfl
  buffer _ := .inl rfl

theorem Claims.trans {a b c : State} (h : Claims a b) (k : Claims b c) : Claims a c where
  da := k.da.trans h.da
  tt := k.tt.trans h.tt
  mu := k.mu.trans h.mu
  tb := k.tb.trans h.tb
  pending := k.pending.trans h.pending
  up := by rw [k.up, h.up]
  claimed := by
    obtain ⟨ns, h1, h2, h3⟩ := h.claimed
    obtain ⟨ms, k1, k2, k3⟩ := k.claimed
    have hr : b.up.reservations = a.up.reservations := by rw [h.up]
    have hl : b.up.link = a.up.link := by rw [h.up]
    refine ⟨ns ++ ms, by simp [k1, h1], ?_, ?_⟩
    · simp only [Up.room, hr, h1, List.length_append, List.length_map] at *
      omega
    · rcases h3 with rfl | h3
      · rcases k3 with rfl | k3
        · simp
        · exact .inr (hl ▸ k3)
      · exact .inr h3
  ev := by rw [k.ev, h.ev]
  records := by
    obtain ⟨x, h1, h2, h3⟩ := h.records
    obtain ⟨y, k1, k2, k3⟩ := k.records
    refine ⟨x + y, by simp [k1, h1], ?_, ?_⟩
    · rw [h1, List.length_drop] at k2; omega
    · rw [k3, h3]; by_cases hy : y = 0 <;> by_cases hx : x = 0 <;> simp [hx, hy]
  port p := by rw [k.port p, h.port p]
  buffer p := by
    rcases k.buffer p with e | e
    · rw [e]; exact h.buffer p
    · exact .inr e

theorem State.nextClaim_some {s : State} {c : Claimant} (h : s.nextClaim = some c) :
    s.up.link = .up ∧ 1 ≤ s.up.room ∧ s.waits c = true := by
  simp only [State.nextClaim] at h
  split at h
  · next hr =>
    simp only [Up.reportsRoom, Bool.and_eq_true, decide_eq_true_eq] at hr
    exact ⟨hr.1, hr.2, List.find?_some h⟩
  · cases h

theorem State.takeClaim_claims {s : State} {c : Claimant} (h : s.nextClaim = some c) : Claims s (s.takeClaim c) := by
  obtain ⟨hl, hr, hw⟩ := State.nextClaim_some h
  cases c with
  | port p =>
    simp only [State.waits] at hw
    obtain ⟨n, hn⟩ := Option.isSome_iff_exists.mp hw
    simp only [State.takeClaim, hn]
    exact
      { da := rfl, tt := rfl, mu := rfl, tb := rfl, pending := rfl, up := rfl
        claimed := ⟨[n], by simp [Up.takeNtf], by simpa using hr, .inr hl⟩
        ev := rfl
        records := ⟨0, by simp⟩
        port := fun q => by rw [State.modPort_port]; split <;> simp_all
        buffer := fun q => by rw [State.modPort_port]; split <;> simp_all }
  | events =>
    simp only [State.waits, Bool.not_eq_true', List.isEmpty_eq_false_iff_exists_mem] at hw
    cases hq : s.ev.queue with
    | nil => simp [hq] at hw
    | cons r rest =>
      simp only [State.takeClaim, hq]
      exact
        { da := rfl, tt := rfl, mu := rfl, tb := rfl, pending := rfl, up := rfl
          claimed := ⟨[eventNtf s.up.segId r s.ev.marker], by simp [Up.takeNtf], by simpa using hr, .inr hl⟩
          ev := rfl
          records := ⟨1, by simp [hq]⟩
          port := fun q => rfl
          buffer := fun q => .inl rfl }

theorem State.takeClaim_room {s : State} {c : Claimant} (h : s.nextClaim = some c) :
    (s.takeClaim c).up.room + 1 = s.up.room := by
  obtain ⟨hl, hr, hw⟩ := State.nextClaim_some h
  cases c with
  | port p =>
    simp only [State.waits] at hw
    obtain ⟨n, hn⟩ := Option.isSome_iff_exists.mp hw
    simp only [State.takeClaim, hn, State.modPort_up, State.modUp_up, Up.room, Up.takeNtf, List.length_append,
      List.length_cons, List.length_nil] at *
    omega
  | events =>
    simp only [State.waits] at hw
    cases hq : s.ev.queue with
    | nil => simp [hq] at hw
    | cons r rest =>
      simp only [State.takeClaim, hq, State.modEv_up, State.modUp_up, Up.room, Up.takeNtf, List.length_append,
        List.length_cons, List.length_nil] at *
      omega

theorem State.takeClaims_claims (n : Nat) (s : State) : Claims s (State.takeClaims n s) := by
  induction n generalizing s with
  | zero => exact Claims.refl s
  | succ n ih =>
    simp only [State.takeClaims]
    split
    · exact Claims.refl s
    · next c hc => exact (State.takeClaim_claims hc).trans (ih _)

/-- A claim taken is the claim UP takes next. -/
theorem State.takeClaim_taken {s : State} {c : Claimant} (h : s.nextClaim = some c) :
    State.ClaimTaken c s (s.takeClaim c) := by
  obtain ⟨-, -, hw⟩ := State.nextClaim_some h
  refine ⟨h, ?_⟩
  cases c with
  | port p =>
    simp only [State.waits] at hw
    obtain ⟨n, hn⟩ := Option.isSome_iff_exists.mp hw
    exact ⟨n, hn, by simp only [State.takeClaim, hn]; rfl⟩
  | events =>
    simp only [State.waits, Bool.not_eq_true', List.isEmpty_eq_false_iff_exists_mem] at hw
    cases hq : s.ev.queue with
    | nil => simp [hq] at hw
    | cons r rest => exact ⟨r, rest, rfl, by simp only [State.takeClaim, hq]; rfl⟩

theorem State.takeClaims_taken (n : Nat) (s : State) : ∃ cs, State.ClaimsTaken cs s (State.takeClaims n s) := by
  induction n generalizing s with
  | zero => exact ⟨[], rfl⟩
  | succ n ih =>
    simp only [State.takeClaims]
    split
    · exact ⟨[], rfl⟩
    · next c hc =>
      obtain ⟨cs, h⟩ := ih (s.takeClaim c)
      exact ⟨c :: cs, _, State.takeClaim_taken hc, h⟩

theorem State.takeClaims_done (n : Nat) (s : State) (h : s.up.room ≤ n) : (State.takeClaims n s).nextClaim = none := by
  induction n generalizing s with
  | zero =>
    simp only [State.takeClaims]
    cases hc : s.nextClaim with
    | none => rfl
    | some c => have := (State.nextClaim_some hc).2.1; omega
  | succ n ih =>
    simp only [State.takeClaims]
    split
    · next hc => exact hc
    · next c hc => exact ih _ (by have := State.takeClaim_room hc; omega)

/-! ### The three other parts -/

@[simp] theorem State.settleIdle_port (s : State) (p : PortNo) :
    s.settleIdle.port p = { s.port p with idleTimer := s.idleTimerOf p } := by
  simp [State.settleIdle, State.port]

@[simp] theorem State.settleNtfGrants_port (s : State) (p : PortNo) :
    s.settleNtfGrants.port p = if s.grantsNtf p then (s.port p).grantNtf else s.port p := by
  simp [State.settleNtfGrants, State.port]

theorem State.settleNtfGrants_waits (s : State) (c : Claimant) : s.settleNtfGrants.waits c = s.waits c := by
  cases c with
  | port p => simp only [State.waits, State.settleNtfGrants_port]; split <;> rfl
  | events => rfl

theorem State.nextClaim_congr {s t : State} (hu : t.up.reportsRoom = s.up.reportsRoom) (hc : t.up.claim = s.up.claim)
    (hw : ∀ c, t.waits c = s.waits c) : t.nextClaim = s.nextClaim := by
  have : t.waits = s.waits := funext hw
  simp [State.nextClaim, hu, hc, this]

theorem State.idleHolds_congr {s t : State} (p : PortNo) (ht : t.tt = s.tt)
    (h1 : (t.port p).state = (s.port p).state) (h2 : (t.port p).idleInterval = (s.port p).idleInterval) :
    t.idleHolds p = s.idleHolds p := by
  simp [State.idleHolds, State.hold, ht, h1, h2]

/-- Everything `settle` can do. -/
theorem State.settle_closes (m : State) : State.Closes m m.settle := by
  have c := State.takeClaims_claims Config.egressPlaces m
  have d := State.takeClaims_done Config.egressPlaces m (by simp only [Up.room]; omega)
  obtain ⟨cs, x⟩ := State.takeClaims_taken Config.egressPlaces m
  revert c d x
  rw [State.settle]
  generalize State.takeClaims Config.egressPlaces m = u
  intro c d x
  have hb : ∀ p, u.settleIdle.port p = { m.port p with idleTimer := m.idleTimerOf p, ntfBuf := (u.port p).ntfBuf } := by
    intro p
    have ht : u.idleTimerOf p = m.idleTimerOf p := by
      simp only [State.idleTimerOf]
      rw [State.idleHolds_congr p c.tt (by rw [c.port p]) (by rw [c.port p]), c.port p]
    rw [State.settleIdle_port, ht, c.port p]
  have dn : u.settleIdle.nextClaim = none := by
    rw [← d]
    refine State.nextClaim_congr rfl rfl ?_
    intro y
    cases y with
    | port p => simp only [State.waits, State.settleIdle_port]
    | events => rfl
  have hbuf : ∀ p, (u.settleIdle.port p).ntfBuf = (u.port p).ntfBuf := fun p => by rw [hb p]
  have cup : u.settleIdle.up = u.up := rfl
  have cev : u.settleIdle.ev = u.ev := rfl
  have cda : u.settleIdle.da = m.da := c.da
  have ctt : u.settleIdle.tt = m.tt := c.tt
  have cmu : u.settleIdle.mu = m.mu := c.mu
  have ctb : u.settleIdle.tb = m.tb := c.tb
  have cpe : u.settleIdle.pending = m.pending := c.pending
  revert hb dn hbuf cup cev cda ctt cmu ctb cpe
  generalize u.settleIdle = b
  intro hb dn hbuf cup cev cda ctt cmu ctb cpe
  have hup : b.settleNtfGrants.up = b.up := rfl
  have hlink : b.up.link = m.up.link := by rw [cup, c.up]
  have hpause : b.up.pause = m.up.pause := by rw [cup, c.up]
  have hparked : b.up.parked = m.up.parked := by rw [cup, c.up]
  have hcred : b.up.reqCredit = m.up.reqCredit := by rw [cup, c.up]
  have hsent : b.up.sent = m.up.sent := by rw [cup, c.up]
  have hp : ∀ p, b.settleNtfGrants.settleReqGrant.port p = if b.grantsNtf p then (b.port p).grantNtf else b.port p := by
    intro p
    rw [State.settleReqGrant, State.modUp_port, State.settleNtfGrants_port]
  have heg : b.settleNtfGrants.settleReqGrant.up.egress = b.up.egress := by
    simp only [State.settleReqGrant, State.modUp_up, hup]; split <;> rfl
  have hcl : b.settleNtfGrants.settleReqGrant.up.claim = b.up.claim := by
    simp only [State.settleReqGrant, State.modUp_up, hup]; split <;> rfl
  have hpb : ∀ p, (b.settleNtfGrants.settleReqGrant.port p).ntfBuf = (b.port p).ntfBuf := by
    intro p; rw [hp p]; split <;> rfl
  have hrep : b.settleNtfGrants.settleReqGrant.up.reportsRoom = b.up.reportsRoom := by
    simp only [State.settleReqGrant, State.modUp_up, hup]; split <;> rfl
  have hroom : b.settleNtfGrants.settleReqGrant.up.room = b.up.room := by
    simp only [State.settleReqGrant, State.modUp_up, hup]; split <;> rfl
  refine
    { da := cda, tt := ctt, mu := cmu, tb := ctb, pending := cpe
      up := ?up, claims := ⟨cs, u, x, d, ?egress, ?claim, cev, ?bufs⟩, claimed := ?claimed, granted := ?granted
      ev := ?ev, records := ?records, port := ?ports
      buffer := ?buffer, grantsNtf := ?grantsNtf, noClaim := ?noClaim, noNtfGrant := ?noNtfGrant
      noReqGrant := ?noReqGrant }
  case up =>
    have : b.settleNtfGrants.settleReqGrant.up
        = { b.up with
            reqCredit := b.settleNtfGrants.settleReqGrant.up.reqCredit
            sent := b.settleNtfGrants.settleReqGrant.up.sent } := by
      simp only [State.settleReqGrant, State.modUp_up, hup]; split <;> rfl
    rw [this, cup, c.up]
  case egress => rw [heg, cup]
  case claim => rw [hcl, cup]
  case bufs => intro p; rw [hpb p, hbuf p]
  case ev =>
    have h : b.settleNtfGrants.settleReqGrant.ev = u.ev := cev
    rw [h]; exact c.ev
  case records =>
    have h : b.settleNtfGrants.settleReqGrant.ev = u.ev := cev
    rw [h]; exact c.records
  case claimed =>
    obtain ⟨ns, h1, h2, h3⟩ := c.claimed
    exact ⟨ns, by rw [heg, cup, h1], h2, h3⟩
  case granted =>
    simp only [State.settleReqGrant, State.modUp_up, hup]
    by_cases ho : b.up.offersGrant = true
    · simp only [ho, if_true]
      have ho' := ho
      simp only [Up.offersGrant, Bool.and_eq_true, decide_eq_true_eq, Bool.not_eq_true'] at ho'
      refine .inr ⟨rfl, ?_, ?_, ?_, ?_, ?_⟩
      · rw [← hcred]; exact ho'.2
      · rw [← hsent]; rfl
      · rw [← hlink]; exact ho'.1.1.1
      · rw [← hpause]; exact ho'.1.1.2
      · rw [← hparked]; exact ho'.1.2
    · simp only [ho]
      exact .inl ⟨hcred, hsent⟩
  case ports =>
    intro p
    rw [hp p]
    split
    · conv_lhs => rw [hb p]
      rw [hb p]; rfl
    · conv_lhs => rw [hb p]
      conv_rhs => rw [hb p]
  case buffer =>
    intro p
    rw [hpb p, hbuf p]
    exact c.buffer p
  case grantsNtf =>
    intro p
    have hg : (b.port p).ntfGranted = (m.port p).ntfGranted := by rw [hb p]
    have hs : (b.port p).sent = (m.port p).sent := by rw [hb p]
    rw [hp p]
    by_cases hgr : b.grantsNtf p = true
    · simp only [hgr, if_true]
      simp only [State.grantsNtf, Bool.and_eq_true, Bool.not_eq_true'] at hgr
      have hst : (b.port p).state = (m.port p).state := by rw [hb p]
      have hr := hgr.2
      simp only [Up.reportsRoom, Bool.and_eq_true, decide_eq_true_eq] at hr
      refine .inr ⟨by rw [← hg]; exact hgr.1.1.2, rfl, by rw [← hs]; rfl, ?_, ?_, hlink ▸ hr.1, by rw [hroom]; exact hr.2⟩
      · rw [← hst]; simpa [or_assoc] using hgr.1.1.1
      · simpa [Port.grantNtf] using hgr.1.2
    · simp only [hgr]
      exact .inl ⟨hg, hs⟩
  case noClaim =>
    rw [← dn]
    refine State.nextClaim_congr hrep hcl ?_
    · intro x
      have : b.settleNtfGrants.settleReqGrant.waits x = b.settleNtfGrants.waits x := by cases x <;> rfl
      rw [this, State.settleNtfGrants_waits]
  case noNtfGrant =>
    intro p
    rw [State.grantsNtf, hp p, hrep]
    by_cases hgr : b.grantsNtf p = true
    · rw [if_pos hgr]; simp [Port.grantNtf]
    · rw [if_neg hgr]; simpa [State.grantsNtf] using hgr
  case noReqGrant =>
    simp only [State.settleReqGrant, State.modUp_up, hup]
    by_cases ho : b.up.offersGrant = true
    · simp only [ho, if_true]
      simp [Up.offersGrant, Up.grantReq, Up.put, Up.room]
    · simp [ho]

end Sys2Proof.Machine
end

