-- ==== Sys2Proof/Laws/Answers.lean ====
section
/-! SUPPORT. One answer per request, once for every operation that can answer: what a change of UP queues for the pairs
that leave the live set. -/
namespace Sys2Proof.Machine

/-- From `u` to `v` frames are only queued behind what stood, and each pair of `u` that left the live set has one response
among them, every other pair none. -/
structure Up.Answers (u v : Up) : Prop where
  nodup : u.live.Nodup → v.live.Nodup
  fewer : ∀ pair ∈ v.live, pair ∈ u.live
  queued : u.live.Nodup → ∃ queued : List UpFrame, v.egress = u.egress ++ queued
    ∧ ∀ pair, queued.countP (fun f => f.answers pair) = if pair ∈ u.live ∧ pair ∉ v.live then 1 else 0

/-- A change of UP that keeps the queue and the live set. -/
theorem Up.Answers.same {u v : Up} (he : v.egress = u.egress) (hl : v.live = u.live) : Up.Answers u v where
  nodup h := hl ▸ h
  fewer pair h := hl ▸ h
  queued _ := ⟨[], by simp [he], fun pair => by simp [hl]⟩

theorem Up.Answers.refl (u : Up) : Up.Answers u u := .same rfl rfl

theorem Up.Answers.trans {u v w : Up} (h : Up.Answers u v) (k : Up.Answers v w) : Up.Answers u w where
  nodup hn := k.nodup (h.nodup hn)
  fewer pair hp := h.fewer pair (k.fewer pair hp)
  queued hn := by
    obtain ⟨a, ha, ca⟩ := h.queued hn
    obtain ⟨b, hb, cb⟩ := k.queued (h.nodup hn)
    refine ⟨a ++ b, by rw [hb, ha, List.append_assoc], fun pair => ?_⟩
    rw [List.countP_append, ca, cb]
    have h1 := h.fewer pair
    have h2 := k.fewer pair
    by_cases x : pair ∈ u.live <;> by_cases y : pair ∈ v.live <;> by_cases z : pair ∈ w.live <;> simp_all

/-- A response queues one frame for the pair it takes out of the live set. -/
theorem Up.respond_answers (u : Up) (r : Rsp) : Up.Answers u (u.respond r) := by
  by_cases h : r.pair ∈ u.live
  · rw [Up.respond_live h]
    refine ⟨fun hn => hn.erase _, fun pair hp => List.mem_of_mem_erase hp, fun hn => ⟨[.rsp r], rfl, fun pair => ?_⟩⟩
    simp only [List.countP_singleton, UpFrame.answers, hn.mem_erase_iff, decide_eq_true_eq]
    by_cases hp : r.pair = pair
    · subst hp; simp [h]
    · simp [hp, Ne.symm hp]
  · rw [Up.respond_dead h]; exact .refl u

theorem Up.foldl_respond_answers (rs : List Rsp) (u : Up) : Up.Answers u (rs.foldl Up.respond u) := by
  induction rs generalizing u with
  | nil => exact .refl u
  | cons r rs ih => exact (u.respond_answers r).trans (ih _)

/-- The end of a happening queues notifications alone. -/
theorem State.Closes.answers {m t : State} (h : State.Closes m t) : Up.Answers m.up t.up := by
  have hl : t.up.live = m.up.live := by rw [h.up]
  refine ⟨fun hn => hl ▸ hn, fun pair hp => hl ▸ hp, fun _ => ?_⟩
  obtain ⟨ns, hns, -, -⟩ := h.claimed
  refine ⟨ns.map UpFrame.ntf, hns, fun pair => ?_⟩
  rw [hl, if_neg (fun hc => hc.2 hc.1), List.countP_eq_zero]
  intro f hf
  obtain ⟨n, -, rfl⟩ := List.mem_map.1 hf
  simp [UpFrame.answers]

theorem State.settle_answers (m : State) : Up.Answers m.up m.settle.up := m.settle_closes.answers

theorem State.answerAll_answers (s : State) (pairs : List Pair) (status : Status) :
    Up.Answers s.up (s.answerAll pairs status).up := by
  rw [State.answerAll_eq]; exact Up.foldl_respond_answers _ _

theorem State.answerHold_answers (s : State) (p : PortNo) (status : Status) :
    Up.Answers s.up (s.answerHold p status).up := by
  rw [State.answerHold_eq]; exact Up.foldl_respond_answers _ _

theorem State.cutPort_answers (s : State) (p : PortNo) (status : Status) :
    Up.Answers s.up (s.cutPort p status).up := by
  rw [State.cutPort_eq]; exact Up.foldl_respond_answers _ _

end Sys2Proof.Machine
end

