-- ==== Sys2Proof/Laws/Decode.lean ====
section
/-! SUPPORT. The decode, once: the FULL set, the order of the hits, the first of them that satisfies a test, and what a
DECODE makes. -/
namespace Sys2Proof.Machine

/-- The FULL set holds a cell exactly when the cell is FULL. -/
theorem Da.fullCells_getLsbD (d : Da) (c : CellNo) : d.fullCells.getLsbD c.val = (d.cells.get c).full := by
  have key : ∀ (l : List CellNo) (acc : BitVec 8),
      (l.foldl (fun acc c => if (d.cells.get c).full then acc ||| (1#8 <<< c.val) else acc) acc).getLsbD c.val
        = (acc.getLsbD c.val || (decide (c ∈ l) && (d.cells.get c).full)) := by
    intro l
    induction l with
    | nil => simp
    | cons a l ih =>
      intro acc
      rw [List.foldl_cons, ih]
      by_cases ha : c = a
      · subst ha
        cases (d.cells.get c).full <;> simp
      · have h2 : (1#8 <<< a.val).getLsbD c.val = false := by
          have hne : c.val ≠ a.val := fun h => ha (Fin.ext h)
          simp only [BitVec.getLsbD_shiftLeft, BitVec.getLsbD_one]
          simp
          omega
        cases (d.cells.get a).full
        · simp [ha]
        · simp only [if_true, BitVec.getLsbD_or, h2, Bool.or_false]
          simp [ha]
  rw [Da.fullCells, key]
  simp

/-- The hitting terms stand in ascending order. -/
theorem Image.hitting_sorted (im : Image) (full : BitVec 8) (r : Request) : (im.hitting full r).Pairwise (· < ·) :=
  (List.pairwise_lt_finRange 64).filter _

theorem Image.mem_hitting {im : Image} {full : BitVec 8} {r : Request} {n : TermNo} :
    n ∈ im.hitting full r ↔ (im.terms.get n).hits full r = true := by
  simp [Image.hitting]

/-- In an ascending list the first that satisfies a test is the lowest that does. -/
theorem find?_ascending {l : List TermNo} (hl : l.Pairwise (· < ·)) {f : TermNo → Bool} {g : TermNo} :
    l.find? f = some g ↔ (g ∈ l ∧ f g = true) ∧ ∀ n, n < g → ¬ (n ∈ l ∧ f n = true) := by
  rw [List.find?_eq_some_iff_append]
  constructor
  · rintro ⟨hg, as, bs, rfl, hbefore⟩
    refine ⟨⟨by simp, hg⟩, fun n hn hc => ?_⟩
    rcases List.mem_append.1 hc.1 with h | h
    · have := hbefore n h
      rw [hc.2] at this
      cases this
    · rcases List.mem_cons.1 h with h | h
      · exact absurd hn (h ▸ lt_irrefl _)
      · exact lt_asymm hn ((List.pairwise_cons.1 (List.pairwise_append.1 hl).2.1).1 n h)
  · rintro ⟨⟨hg, hf⟩, hbefore⟩
    obtain ⟨as, bs, rfl⟩ := List.append_of_mem hg
    refine ⟨hf, as, bs, rfl, fun n hn => ?_⟩
    have := hbefore n ((List.pairwise_append.1 hl).2.2 n hn g (by simp))
    simpa [hn] using this

theorem State.holdOrBusy_da (s : State) (p : PortNo) (r : Request) :
    (s.holdOrBusy p r).da = s.da ∧ (s.holdOrBusy p r).ev = s.ev ∧ (s.holdOrBusy p r).tb = s.tb := by
  unfold State.holdOrBusy
  split <;> exact ⟨rfl, rfl, rfl⟩

/-- The hand-off leaves DA, EQ and TB as they were. -/
theorem State.handOff_da (s : State) (r : Request) (v : Verdict) :
    (s.handOff r v).da = s.da ∧ (s.handOff r v).ev = s.ev ∧ (s.handOff r v).tb = s.tb := by
  cases v with
  | toPort p a =>
    simp only [State.handOff, State.takeDecoded]
    split
    any_goals exact ⟨rfl, rfl, rfl⟩
    · exact State.holdOrBusy_da ..
    · split
      · split
        · exact ⟨rfl, rfl, rfl⟩
        · exact State.holdOrBusy_da ..
      · exact State.holdOrBusy_da ..
  | toMgmt =>
    simp only [State.handOff, State.takeMgmt]
    split
    · exact ⟨rfl, rfl, rfl⟩
    · split <;> exact ⟨rfl, rfl, rfl⟩
  | refuse st => exact ⟨rfl, rfl, rfl⟩

/-- DECODE of the oldest request: the hand-off, with what every decode does at DA and EQ laid over it, and the end of the
happening. -/
theorem execDecode_cons {s : State} {r : Request} {rest : List Request} (h : s.da.intake = r :: rest) :
    execDecode s = .next (s.withDecode rest r
      (({ s with da := { s.da with intake := rest } } : State).handOff r (s.verdictOf r))).settle := by
  have hda := State.handOff_da { s with da := { s.da with intake := rest } } r (s.verdictOf r)
  have key : ({ s with da := { s.da with intake := rest } } : State).decodeRequest r = s.withDecode rest r
      (({ s with da := { s.da with intake := rest } } : State).handOff r (s.verdictOf r)) := by
    have hd : ((({ s with da := { s.da with intake := rest } } : State).handOff r (s.verdictOf r)).modDa (fun d =>
        { d with cells := d.cells.imap (s.loadedCell (s.hitsOf r) r (s.routeOf r))
                 hits := d.hits.imap (fun n w => if n ∈ s.hitsOf r then satInc w else w) })).modEv
          (fun e => (s.decodeEvents (s.hitsOf r) r (s.routeOf r)).foldl Events.hand
            ((decisionCounters (s.routeOf r) (s.verdictOf r)).foldl Events.countDecision e))
        = s.withDecode rest r (({ s with da := { s.da with intake := rest } } : State).handOff r (s.verdictOf r)) := by
      simp only [State.modDa, State.modEv, State.withDecode, hda.1, hda.2.1]
    exact hd
  unfold execDecode
  rw [h]
  exact congrArg (fun x : State => Host.Outcome.next x.settle) key

end Sys2Proof.Machine
end

