-- ==== Sys2Proof/Laws/Serve.lean ====
section
/-! SUPPORT. The management unit's serving, once: the head, the request off the queue, the checks of a span, and the rows
that serve an access. -/
namespace Sys2Proof.Machine

theorem Mu.head_cons {m : Mu} {r : Request} {rest : List Request} (h1 : m.cmd = .idle) (h2 : m.queue = r :: rest) :
    m.head = some r := by
  simp [Mu.head, h1, h2]

theorem State.popMu_cons {s : State} {r : Request} {rest : List Request} (h : s.mu.queue = r :: rest) :
    s.popMu = { s with mu := { s.mu with queue := rest } } := by
  simp only [State.popMu, State.modMu, h]
  rfl

/-- The head carries a command when it writes its code and the argument is one the command takes. -/
theorem State.headCarries_of {s : State} {r : Request} {c : Cmd} (h1 : r.commandCode = some (c.code.setWidth 32))
    (h2 : c.argumentOk s.mu.arg = true) : s.headCarries c r = true := by
  simp [State.headCarries, h1, h2]

theorem State.headCarries_none {s : State} {r : Request} (c : Cmd) (h : r.commandCode = none) :
    s.headCarries c r = false := by
  simp [State.headCarries, h]

/-- A served write: the head leaves the queue and goes through the checks. -/
theorem State.serveWriteIf_of {s : State} {r : Request} {test : Request → Bool} (h1 : s.mu.head = some r)
    (h2 : test r = true) : s.serveWriteIf test = (s.popMu.serveWrite r).settle := by
  unfold State.serveWriteIf
  rw [h1]
  exact if_pos h2

/-- Whichever row serves an access, the access is served alike. -/
theorem exec_of_rowServes {s : State} {r : Request} {rest : List Request} {c : Instr} (h1 : s.mu.cmd = .idle)
    (h2 : s.mu.queue = r :: rest) (h3 : r.commandCode = none) (h4 : s.rowServes r c = true) :
    exec c s = .next (s.popMu.serveWrite r).settle := by
  have hh : s.mu.head = some r := Mu.head_cons h1 h2
  have key : ∀ test : Request → Bool, test r = true → s.serveWriteIf test = (s.popMu.serveWrite r).settle :=
    fun _ ht => State.serveWriteIf_of hh ht
  cases c <;> simp only [State.rowServes, Bool.false_eq_true] at h4
  · exact congrArg Host.Outcome.next (key _ h4)
  · exact congrArg Host.Outcome.next (key _ h4)
  · exact congrArg Host.Outcome.next (key _ h4)
  · exact congrArg Host.Outcome.next (key _ h4)
  · simp only [exec, execPortEnable, hh, State.headCarries_none _ h3]
    exact congrArg Host.Outcome.next (key _ h4)
  · simp only [exec, execPortDisable, hh, State.headCarries_none _ h3]
    exact congrArg Host.Outcome.next (key _ h4)

theorem Request.inWindow_iff {r : Request} : r.inWindow = true ↔
    0xFFFF0000 ≤ r.addr.toNat ∧ r.addr.toNat + r.length.toNat - 1 ≤ 0xFFFFFFFF := by
  unfold Request.inWindow Config.windowBase
  rw [Bool.and_eq_true, decide_eq_true_iff, decide_eq_true_iff]
  constructor
  · rintro ⟨h1, h2⟩
    exact ⟨h1, by omega⟩
  · rintro ⟨h1, h2⟩
    exact ⟨h1, by omega⟩

theorem isTableWord_iff {o : Nat} :
    isTableWord o = true ↔ (0x1000 ≤ o ∧ o ≤ 0x1241) ∨ (0x2000 ≤ o ∧ o ≤ 0x2241) := by
  simp [isTableWord]

theorem Request.spansCommand_iff {r : Request} :
    r.spansCommand = true ↔ ∃ i, i < r.length.toNat ∧ r.offset + i = 0x41 := by
  simp [Request.spansCommand, Request.offsets, commandOffset]

theorem Request.spansTable_iff {r : Request} :
    r.spansTable = true ↔ ∃ i, i < r.length.toNat ∧ isTableWord (r.offset + i) = true := by
  simp [Request.spansTable, Request.offsets]

end Sys2Proof.Machine
end

