-- ==== Sys2Proof/Tests/Slice0.lean ====
section
/-! SUPPORT. Tests of the model, each one step on a small state, their expected values taken from the spec's tables and
worked sequences; and for every obligation with hypotheses a witness: states and operands that meet them. -/
namespace Sys2Proof.Tests
open Sys2Proof Sys2Proof.Machine

set_option Elab.async false

/-! ### Small states -/

/-- What a command answers, when it answers a next state. -/
def nextOf : Host.Outcome State Fault Refusal → State
  | .next t => t
  | .fault _ => State.reset
  | .refused _ => State.reset

/-- The director after reset with the upstream link brought up, credits open and REQ granted for all room. -/
def linked : State := { State.reset with up := { State.reset.up with
  link := .up, hello := none, rspCredit := .unlimited, ntfCredit := .unlimited, reqCredit := 40 } }

/-- A request of source 2, tag 10. -/
def ask (op : Opcode) (length : BitVec 7) (addr : Word) (payload : List Word) : Request :=
  { pair := ⟨2#4, 10#6⟩, opcode := op, length := length, addr := addr, payload := payload }

/-- The requests named live, each with its reservation. -/
def accepted (s : State) (pairs : List Pair) : State := { s with up := { s.up with
  live := pairs, reservations := pairs.length, reqCredit := 40 - pairs.length } }

/-- One request in the decode intake, under the active image `im`. -/
def decoding (s : State) (im : Image) (r : Request) : State :=
  let t := accepted s [r.pair]
  { t with da := { t.da with active := im, intake := [r] } }

/-- One request at the head of MU's queue. -/
def managed (s : State) (r : Request) : State :=
  let t := accepted s [r.pair]
  { t with mu := { t.mu with queue := [r] } }

/-- A WRITE of one word of the management window. -/
def writeOf (off : Word) (v : Word) : Request := ask .write 1#7 (0xFFFF0000#32 ||| off) [v]

/-- A command written to the command word, with its argument. -/
def commanded (s : State) (code arg : Word) : State :=
  managed { s with mu := { s.mu with arg := arg } } (writeOf 0x41#32 code)

/-- The state with one port replaced. -/
def withPort (s : State) (p : PortNo) (q : Port) : State := { s with dp := s.dp.set p q }

/-- A port in a state, its credit open and a notification granted. -/
def portIn (st : PortState) : Port := { Port.powerOn with state := st, credit := .unlimited, ntfGranted := true }

/-- An entry of port `p` with the pair of `ask`. -/
def entryIn (st : EntryState) (p : PortNo) : Entry :=
  { state := st, pair := ⟨2#4, 10#6⟩, port := p, opcode := .read, length := 2#7, addr := 0x20#32, timer := 0,
    stamp := 100#32 }

/-- The state with one entry replaced. -/
def withEntry (s : State) (n : EntryNo) (e : Entry) : State :=
  { s with tt := { s.tt with entries := s.tt.entries.set n e } }

/-- The state with one hold queue replaced. -/
def withHold (s : State) (p : PortNo) (rs : List Request) : State :=
  { s with tt := { s.tt with holds := s.tt.holds.set p rs } }

/-- A DA with the flags named. -/
def flagged (lock retain : Bool) : State :=
  { linked with da := { linked.da with lock := lock, retain := retain } }

/-- A term of every source. -/
def termOf (pol : Polarity) (select : BitVec 3) (mask value : Word) (ops : BitVec 3) : Term :=
  { Term.empty with
    valid := true, polarity := pol, select := select, opcodes := ops, value := value, mask := mask,
    sources := 0xFFFF#16 }

/-- The image of the worked decodes (1.9). -/
def worked : Image :=
  { Image.boot with
    label := 0x41#16
    terms := ((Image.boot.terms.set 4
        { termOf .assert 2#3 0xFFF00000#32 0x00200000#32 7#3 with windowPresent := true, window := 2#4 }).set 5
        (termOf .inhibit 2#3 0xFFFFF000#32 0x0020F000#32 6#3)).set 9
        { termOf .assert 0#3 0xF0000000#32 0xF0000000#32 1#3 with sources := 0x20#16 }
    windows := Image.empty.windows.set 2
      { valid := true, readAllowed := true, writeAllowed := true, exponent := 20#5, base := 0x00200000#32,
        translated := 0#32 } }

/-- Window 7 of the worked translations (2.9). -/
def window7 : Window :=
  { valid := true, readAllowed := true, writeAllowed := false, exponent := 12#5, base := 0x00040000#32,
    translated := 0xFFFFF000#32 }

/-- The image of the worked translations (2.9). -/
def translating : Image :=
  { Image.boot with
    terms := Image.boot.terms.set 14
      { termOf .assert 3#3 0xFFF80000#32 0#32 7#3 with windowPresent := true, window := 7#4 }
    windows := Image.empty.windows.set 7 window7 }

/-- The image of the capture sequence (3.8). -/
def capturing : Image :=
  { Image.boot with
    terms := (Image.boot.terms.set 10
        { termOf .assert 1#3 0xFFFF0000#32 0x00100000#32 2#3 with capturePresent := true, cell := 3#3 }).set 11
        { termOf .assert 2#3 0xFFFF0000#32 0x00180000#32 1#3 with needEmpty := 0x08#8 } }

/-- Request 2 of the capture sequence (3.8). -/
def arming : State :=
  let s := decoding linked capturing (ask .write 2#7 0x00100040#32 [0#32, 0#32])
  { s with ev := { s.ev with mask := 0xFF#8 }, tb := { s.tb with timestamp := 1350#32 } }

/-! ### Commands the table has, and those it has not (R118) -/

theorem test_wellFormed_req : WellFormed (.reqFrameReceived [0x08A42000#32, 0#32]) = true := by decide
theorem test_illFormed_req_of_class_rsp : WellFormed (.reqFrameReceived [0x40000000#32, 0#32]) = false := by decide
theorem test_wellFormed_rsp : WellFormed (.upstreamRspNtfFrame [0x40000000#32, 0#32]) = true := by decide
theorem test_illFormed_rsp_of_class_req : WellFormed (.upstreamRspNtfFrame [0x08A42000#32]) = false := by decide
theorem test_illFormed_rsp_without_words : WellFormed (.upstreamRspNtfFrame []) = false := by decide
theorem test_no_word_spells_a_command : decodeTableWord 32 0 = none := by decide

/-! ### Words and checks (R119, R125, 11.1, 11.2) -/

/-- The check of R119's generator and start value over the bytes "12345678" is A12Bh. -/
theorem test_crc16_of_digits : crc16 [0x31323334#32, 0x35363738#32] = 0xA12B#16 := by decide +kernel

/-- HELLO of identity 3, its check computed by hand from 11.2. -/
theorem test_hello_symbol : helloSymbol 3#4 = .symbol (0x0003DE#24) := by decide +kernel

/-- GRANT for REQ of 40 by 11.2: type 5, class 0, count 40. -/
theorem test_grant_symbol : grantSymbol .req 40#8 = .symbol (0xA02817#24) := by decide +kernel

/-- A request header bit by bit from 11.2: class 0, source 2, tag 10, opcode 1, length 4. -/
theorem test_request_header : (readReq [0x08A42000#32, 0x0020F100#32, 1#32, 2#32, 3#32, 4#32, 0#32]) =
    { pair := ⟨2#4, 10#6⟩, opcode := 1#2, length := 4#7, addr := 0x0020F100#32,
      payload := [1#32, 2#32, 3#32, 4#32] } := by decide +kernel

/-- A response header bit by bit: class 1, source 2, tag 10, status 1, length 0. -/
theorem test_response_header :
    (responseWords (plainRsp ⟨2#4, 10#6⟩ .refused)).head? = some 0x48A01000#32 := by decide +kernel

/-- A frame whose check word has a bit in its high half fails its check. -/
theorem test_check_high_half :
    frameOk (withCheck [0x48A01000#32]) = true
      ∧ frameOk [0x48A01000#32, (crc16 [0x48A01000#32]).setWidth 32 ||| 0x80000000#32] = false := by decide +kernel

/-- The MODIFY example of 7.3. -/
theorem test_modify_words :
    let r := ask .modify 2#7 0x400#32 [0x0000FFFF#32, 0xF0F0F0F0#32, 0xAAAA5555#32, 0#32]
    r.written 0 0x12345678#32 = 0x12345555#32 ∧ r.written 1 0xFFFFFFFF#32 = 0x0F0F0F0F#32 := by decide +kernel

/-! ### The decode (1.9, 2.9, 3.8) -/

/-- Sequence A: an INHIBIT term sends the write to the default REJECT. -/
theorem test_decode_inhibited :
    let t := nextOf (exec .decode (decoding linked worked
      (ask .write 4#7 0x0020F100#32 [0#32, 0#32, 0#32, 0#32])))
    t.up.egress = [.rsp (plainRsp ⟨2#4, 10#6⟩ .refused)] ∧ t.da.hits.get 4 = 1#32 ∧ t.da.hits.get 5 = 1#32
      ∧ t.da.hits.get 9 = 0#32 ∧ t.ev.decisions.rows = [0, 0, 0, 0, 0, 1, 1, 0, 0, 0].map (BitVec.ofNat 32) := by
  decide +kernel

/-- Sequence B: the read goes to port 2 at 0000F100h. -/
theorem test_decode_forwarded :
    let t := nextOf (exec .decode (withPort (decoding linked worked (ask .read 4#7 0x0020F100#32 [])) 2
      (portIn .active)))
    (t.entry 0).state = .opened ∧ (t.entry 0).port = 2 ∧ (t.entry 0).addr = 0x0000F100#32
      ∧ t.ev.decisions.get 2 = 1#32 := by decide +kernel

/-- Sequence C: the record names term 0 and shows PORT0 and MGMT, bits 0 and 4. -/
theorem test_decode_conflict :
    (decoding linked worked { ask .read 1#7 0xFFFF0010#32 [] with pair := ⟨5#4, 3#6⟩ }).decodeEvents [0, 9]
        { ask .read 1#7 0xFFFF0010#32 [] with pair := ⟨5#4, 3#6⟩ } (.conflict [.port 0, .mgmt])
      = [⟨.conflict, .term 0, some ⟨5#4, 3#6⟩, 0x11#32, 0#32⟩] := by decide +kernel

/-- Sequence C′: the recovery source reaches MU. -/
theorem test_decode_recovery :
    let s := decoding linked worked { ask .read 1#7 0xFFFF0010#32 [] with pair := ⟨5#4, 3#6⟩ }
    let t := nextOf (exec .decode { s with da := { s.da with rcvSrc := 5#4, rcvEn := true } })
    t.mu.queue.length = 1 ∧ t.up.egress = [] ∧ t.ev.decisions.get 4 = 1#32 ∧ t.da.hits.get 9 = 1#32 := by
  decide +kernel

/-- Requests a to i of window 7. -/
theorem test_window_edges :
    ([ask .read 1#7 0x00040000#32 [], ask .read 64#7 0x00040FC0#32 [], ask .read 64#7 0x00040FC1#32 [],
      ask .read 1#7 0x00040FFF#32 [], ask .read 1#7 0x0003FFFF#32 [], ask .read 4#7 0x00050000#32 [],
      ask .write 1#7 0x00040010#32 [0#32], ask .write 2#7 0x00040FFF#32 [0#32, 0#32],
      ask .modify 2#7 0x00040800#32 [0#32, 0#32, 0#32, 0#32]]).map (window7.apply 3)
    = [.toPort 3 0xFFFFF000#32, .toPort 3 0xFFFFFFC0#32, .refuse .span, .toPort 3 0xFFFFFFFF#32, .refuse .span,
       .refuse .span, .refuse .protectedAccess, .refuse .span, .refuse .protectedAccess] := by decide +kernel

/-- The judgements of 2.2. -/
theorem test_window_validity :
    (let w : Word → BitVec 5 → Word → Bool → Bool → Window := fun b k t rd wr =>
      { valid := true, readAllowed := rd, writeAllowed := wr, exponent := k, base := b, translated := t }
     [w 0x00040800#32 12#5 0#32 true false, w 0x00040000#32 12#5 0xFFFFF001#32 true false,
      w 0x00040000#32 3#5 0#32 true true, w 0#32 29#5 0#32 true true, w 0x00040000#32 12#5 0#32 false false,
      w 0#32 28#5 0xF0000000#32 true true, w 0x00040000#32 12#5 0xFFFFF000#32 true false].map Window.fault)
    = [some .align, some .range, some .size, some .size, some .rights, none, none] := by decide +kernel

/-- Request 2 of the capture sequence fills cell 3; once it is FULL the read misses term 11. -/
theorem test_capture_then_refuse :
    let t := nextOf (exec .decode arming)
    (t.da.cells.get 3).full = true ∧ (t.da.cells.get 3).loads = 1#16 ∧ (t.da.cells.get 3).record.term = 10#6
      ∧ (t.da.cells.get 3).record.stamp = 1350#32
      ∧ t.hitsOf (ask .read 8#7 0x00180020#32 []) = [] := by decide +kernel

/-! ### Banks and commands (4.8, 9.9) -/

/-- The staging image of COMMIT 1: term 17 without opcodes, window 5 mistyped. -/
def mistyped (ops : BitVec 3) (base : Word) : Image :=
  { Image.boot with
    label := 0x0102#16
    terms := Image.boot.terms.set 17
      { termOf .assert 1#3 0xFFFFF000#32 0x00300000#32 ops with windowPresent := true, window := 5#4 }
    windows := Image.empty.windows.set 5
      { valid := true, readAllowed := true, writeAllowed := true, exponent := 12#5, base := base, translated := 0#32 } }

/-- A COMMIT at the head of MU's queue, with a staging image. -/
def committing (im : Image) : State :=
  let s := commanded linked 1#32 0#32
  { s with da := { s.da with staging := im }, ev := { s.ev with mask := 0xFF#8 } }

/-- COMMIT 1 names TERM 17, OPCODES and COMMIT 2 WINDOW 5, ALIGN, as 11.4 codes them. -/
theorem test_commit_refused :
    (nextOf (exec .commit (committing (mistyped 0#3 0x00300800#32)))).mu.last = ⟨1#8, .invalidImage, 0x02110003#32⟩
      ∧ (nextOf (exec .commit (committing (mistyped 3#3 0x00300800#32)))).mu.last
        = ⟨1#8, .invalidImage, 0x03050008#32⟩ := by decide +kernel

/-- COMMIT 3 swaps the banks under generation 1. -/
theorem test_commit_swaps :
    let t := nextOf (exec .commit (committing (mistyped 3#3 0x00300000#32)))
    t.da.active.label = 0x0102#16 ∧ t.da.staging = Image.boot ∧ t.da.generation = 1#16
      ∧ t.mu.last = ⟨1#8, .ok, 1#32⟩ := by decide +kernel

/-! ### One test per command -/

/-- Straps 3, 5 and RCVEN high are sampled; the rest stands at its values of 11.4. -/
theorem test_por :
    let t := nextOf (exec (.por { segId := 3#4, rcvSrc := 5#4, rcvEn := true }) linked)
    ([2, 3, 4, 8, 9, 0x101, 0x102, 0x104, 0x105, 0x106, 0x1240, 0x2000, 0x2001].map (fun o => (t.readWord o).toNat))
      = [3, 0x105, 0, 50, 0x99, 8, 625, 63, 20, 1, 5, 0x84000007, 0xFFFF0000] := by decide +kernel

/-- With RETAIN set and the lock clear the cells' modes stay and staging is emptied (R68). -/
theorem test_pinReset :
    let s := flagged false true
    let t := nextOf (exec (.pinReset Straps.low) { s with da := { s.da with
      staging := worked, cells := s.da.cells.modify 2 (fun c => { c with mode := .track, full := true }) } })
    (t.da.cells.get 2).mode = .track ∧ (t.da.cells.get 2).full = false ∧ t.da.staging = Image.empty := by
  decide +kernel

/-- The timestamp wraps (R174). -/
theorem test_tick_wraps :
    (nextOf (exec .tick { linked with tb := { linked.tb with timestamp := 0xFFFFFFFF#32 } })).tb.timestamp = 0#32 := by
  decide +kernel

theorem test_upstreamHelloTimerExpiry :
    (nextOf (exec .upstreamHelloTimerExpiry { State.reset with up := { State.reset.up with hello := some 0 } })).up.sent
      = [helloSymbol 0#4, helloSymbol 0#4] := by decide +kernel

/-- 7.9 at 1400: LINK-UP is queued with origin 7 and source 3, and REQ is granted for the room left. -/
theorem test_upstreamHello :
    let t := nextOf (exec (.upstreamHello 0#13 (symbolCheck .hello 0#13)) (State.powerOn { Straps.low with segId := 3#4 }))
    t.up.link = .up ∧ t.up.egress = [.ntf { src := 3#4, origin := 7#3, length := 3#4, payload := [7#32, 0#32, 0#32] }]
      ∧ t.up.reqCredit = 39 := by decide +kernel

/-- 7.9 at 1500: HELLO while UP is counted and the credits become 0. -/
theorem test_upstreamLinkLoss :
    let t := nextOf (exec (.upstreamLinkLoss (.hello 0#13 (symbolCheck .hello 0#13))) linked)
    t.up.link = .linking ∧ t.ev.upLinkLoss = 1#32 ∧ t.up.rspCredit = .zero := by decide +kernel

/-- A request takes one place and the credit follows the room (R136, R137). -/
theorem test_reqFrameReceived :
    let t := nextOf (exec (.reqFrameReceived (withCheck [0x08A00800#32, 0xFFFF0000#32])) linked)
    t.up.room = 39 ∧ t.up.reqCredit = 39 ∧ t.up.live = [⟨2#4, 10#6⟩]
      ∧ t.da.intake = [ask .read 1#7 0xFFFF0000#32 []] := by decide +kernel

theorem test_upstreamRspNtfFrame :
    (nextOf (exec (.upstreamRspNtfFrame (withCheck [0x48A00000#32])) linked)).ev.upBad = 1#32 := by decide +kernel

/-- 7.9 at 1430: the notification leaves, then the response behind it, whose credit falls from 2 to 1. -/
theorem test_upstreamGrant :
    let s : State := { linked with up := { linked.up with
      rspCredit := .counted 2, ntfCredit := .zero, reqCredit := 38
      egress := [.ntf { src := 3#4, origin := 7#3, length := 3#4, payload := [7#32, 0#32, 0#32] },
        .rsp (plainRsp ⟨0#4, 1#6⟩ .ok)] } }
    let t := nextOf (exec (.upstreamGrant 0x10FF#13 (symbolCheck .grant 0x10FF#13)) s)
    t.up.egress = [] ∧ t.up.rspCredit = .counted 1 ∧ t.up.ntfCredit = .unlimited ∧ t.up.reqCredit = 40 := by
  decide +kernel

theorem test_upstreamPark :
    let t := nextOf (exec (.upstreamPark 0#13 (symbolCheck .park 0#13)) linked)
    t.up.parked = true ∧ t.up.reqCredit = 0 ∧ t.up.sent.length = 1 := by decide +kernel

theorem test_upstreamWake :
    (nextOf (exec (.upstreamWake 0#13 (symbolCheck .wake 0#13)) { linked with up := { linked.up with
      parked := true, reqCredit := 0, sent := [] } })).up.sent
      = [plainSymbol .ready, grantSymbol .req 40#8] := by decide +kernel

/-- Without credit for its class the head waits (R127). -/
theorem test_egressSend :
    let s : State := { linked with up := { linked.up with
      egress := [.rsp (plainRsp ⟨0#4, 1#6⟩ .ok)], reqCredit := 39, rspCredit := .zero } }
    (nextOf (exec .egressSend s)).up.egress.length = 1
      ∧ (nextOf (exec .egressSend { s with up := { s.up with rspCredit := .counted 1 } })).up.egress = [] := by
  decide +kernel

/-- A port's notification. -/
def someNtf : Ntf := { src := 1#4, origin := 1#3, length := 1#4, payload := [9#32] }

theorem test_notificationClaim :
    let t := nextOf (exec (.notificationClaim 1) (withPort linked 1 { portIn .active with ntfBuf := some someNtf }))
    t.up.egress = [.ntf someNtf] ∧ (t.port 1).ntfBuf = none ∧ t.up.claim = .port 2 := by decide +kernel

/-- 10.8, step 4: the first record claimed carries the marker, bit 31. -/
theorem test_eventClaim :
    (nextOf (exec .eventClaim { linked with ev := { linked.ev with
      queue := [⟨.timeout, .port 1, some ⟨2#4, 10#6⟩, 3#32, 8#32⟩], marker := true } })).up.egress
      = [.ntf { src := 0#4, origin := 7#3, length := 3#4, payload := [0x84A20110#32, 3#32, 8#32] }] := by
  decide +kernel

/-- 5.8 at 350: the response to tag 1 is forwarded and C of hold queue 1 takes the entry freed, to run out at 1150. -/
theorem test_downstreamFrame :
    let s := withHold (withEntry (withPort (accepted linked [⟨2#4, 10#6⟩]) 1
      { portIn .active with limit := 1#5, respTimeout := 50#16 }) 0 { entryIn .opened 1 with opcode := .write }) 1
      [{ ask .read 1#7 0x30#32 [] with pair := ⟨2#4, 3#6⟩ }]
    let t := nextOf (exec (.downstreamFrame 1 (withCheck [0x40000000#32])) s)
    t.up.egress = [.rsp (plainRsp ⟨2#4, 10#6⟩ .ok)] ∧ (t.entry 0).pair = ⟨2#4, 3#6⟩ ∧ (t.entry 0).timer = 800
      ∧ t.hold 1 = [] := by decide +kernel

/-- A request in a send slot. -/
def slotItem : SlotItem :=
  { entry := 0, src := 0#4, opcode := .read, length := 1#7, addr := 0x20#32, payload := [] }

theorem test_downstreamGrantReq :
    let t := nextOf (exec (.downstreamGrantReq 1 1#13 (symbolCheck .grant 1#13)) (withPort linked 1
      { portIn .active with slot := [slotItem, slotItem], credit := .zero }))
    (t.port 1).slot = [slotItem] ∧ (t.port 1).credit = .zero ∧ (t.port 1).sent = [.frame (requestWords slotItem)] := by
  decide +kernel

theorem test_portSend_needs_active :
    ((nextOf (exec (.portSend 1) (withPort linked 1 { portIn .draining with slot := [slotItem] }))).port 1).slot = []
      ∧ ((nextOf (exec (.portSend 1) (withPort linked 1 { portIn .waking with slot := [slotItem] }))).port 1).slot
        = [slotItem] := by decide +kernel

/-- 5.8 at 900: TIMEOUT is answered and the quarantine is another 800 ticks. -/
theorem test_entryTimeout :
    let t := nextOf (exec (.entryTimeout 0) (withEntry (withPort (accepted linked [⟨2#4, 10#6⟩]) 1
      { portIn .active with respTimeout := 50#16 }) 0 (entryIn .opened 1)))
    t.up.egress.head? = some (.rsp (plainRsp ⟨2#4, 10#6⟩ .timeout)) ∧ (t.entry 0).state = .expired
      ∧ (t.entry 0).timer = 800 := by decide +kernel

/-- A drain completes when the last quarantine ends (R108). -/
theorem test_quarantineEnd :
    let t := nextOf (exec (.quarantineEnd 0) (withEntry (withPort linked 1 (portIn .draining)) 0 (entryIn .expired 1)))
    t.entry 0 = Entry.blank ∧ (t.port 1).state = .disabled ∧ (t.port 1).sent = [plainSymbol .down] := by decide +kernel

/-- A LINKING port, its timers at the values given. -/
def linkingPort (link hello : Nat) : Port :=
  { Port.powerOn with state := .linking, linkTimer := some link, helloTimer := some hello }

theorem test_portHelloTimerExpiry :
    ((nextOf (exec (.portHelloTimerExpiry 2) (withPort linked 2 (linkingPort 7 0)))).port 2).helloTimer = some 1000 := by
  decide +kernel

theorem test_portHelloReceived :
    let t := nextOf (exec (.portHelloReceived 2 0#13 (symbolCheck .hello 0#13)) (withPort linked 2 (linkingPort 7 7)))
    (t.port 2).state = .active ∧ (t.port 2).sent = [grantSymbol .rsp 255#8, grantSymbol .ntf 1#8] := by decide +kernel

/-- The PORT-STATE record shows the new state 6, the state left 1 and the reason 1 (11.5). -/
theorem test_linkTimerExpiry :
    let t := nextOf (exec (.linkTimerExpiry 2) (withPort State.reset 2 (linkingPort 0 7)))
    (t.port 2).state = .faulted ∧ t.ev.queue = [⟨.portState, .port 2, none, 0x116#32, 0#32⟩] := by decide +kernel

theorem test_downstreamLinkLoss :
    let t := nextOf (exec (.downstreamLinkLoss 1 .symbolLock) (withEntry (withPort (accepted linked [⟨2#4, 10#6⟩]) 1
      (portIn .active)) 0 (entryIn .opened 1)))
    t.up.egress.head? = some (.rsp (plainRsp ⟨2#4, 10#6⟩ .targetLost)) ∧ t.entry 0 = Entry.blank
      ∧ (t.port 1).reason = .linkLost := by decide +kernel

theorem test_idleTimerExpiry :
    let t := nextOf (exec (.idleTimerExpiry 1) (withPort linked 1
      { portIn .active with idleInterval := 2#8, idleTimer := some 0 }))
    (t.port 1).state = .parked ∧ (t.port 1).credit = .zero ∧ (t.port 1).sent = [plainSymbol .park] := by decide +kernel

theorem test_readyOrWakeReceived :
    ((nextOf (exec (.readyOrWakeReceived 1 .ready 0#13 (symbolCheck .ready 0#13)) (withPort linked 1
      { portIn .waking with wakeTimer := some 5 }))).port 1).state = .active := by decide +kernel

theorem test_wakeTimerExpiry :
    let t := nextOf (exec (.wakeTimerExpiry 1) (withHold (withPort (accepted linked [⟨2#4, 10#6⟩]) 1
      { portIn .waking with wakeTimer := some 0 }) 1 [ask .read 1#7 0#32 []]))
    (t.port 1).reason = .wakeTimeout ∧ t.hold 1 = []
      ∧ t.up.egress.head? = some (.rsp (plainRsp ⟨2#4, 10#6⟩ .targetLost)) := by decide +kernel

/-- A write of 0 keeps the divider, and a write of another value sets it (R154, R173). -/
theorem test_managementWrite :
    (nextOf (exec .managementWrite (managed linked (writeOf 8#32 0x100#32)))).tb.divider = 50#8
      ∧ (nextOf (exec .managementWrite (managed linked (writeOf 8#32 0xFF#32)))).tb.divider = 255#8 := by decide +kernel

/-- A tick under way keeps the length it began with; one that has just begun takes the length written (R173). -/
theorem test_idle_then_divider_write :
    let s := { managed linked (writeOf 8#32 0xFF#32) with pending := [] }
    let t := nextOf (step s)
    t.tb.progress = 1 ∧ (nextOf (exec .managementWrite t)).tb.tickLength = 50#8
      ∧ (nextOf (exec .managementWrite s)).tb.tickLength = 255#8 := by decide +kernel

/-- While the lock is set a staging write is refused LOCKED (R64). -/
theorem test_stagingWrite :
    let t := nextOf (exec .stagingWrite (managed linked (writeOf 0x1240#32 0xFFFFFFFE#32)))
    let u := nextOf (exec .stagingWrite (managed (flagged true false) (writeOf 0x1240#32 0xFFFFFFFE#32)))
    t.da.staging.defaultSelect = 6#3 ∧ t.readWord 0x1240 = 6#32 ∧ u.da.staging = Image.empty
      ∧ u.up.egress = [.rsp (plainRsp ⟨2#4, 10#6⟩ .locked)] := by decide +kernel

/-- A limit of 17 keeps the item (R154). -/
theorem test_portConfigurationWrite :
    ((nextOf (exec .portConfigurationWrite (managed linked (writeOf 0x111#32 17#32)))).port 1).limit = 8#5
      ∧ ((nextOf (exec .portConfigurationWrite (managed linked (writeOf 0x111#32 16#32)))).port 1).limit = 16#5 := by
  decide +kernel

theorem test_eventOverflowClear :
    let s : State := { linked with ev := { linked.ev with overflow := true, marker := true } }
    let t := nextOf (exec .eventOverflowClear (managed s (writeOf 0xA#32 1#32)))
    t.ev.overflow = false ∧ t.ev.marker = true := by decide +kernel

theorem test_stagingCopy : (nextOf (exec .stagingCopy (commanded linked 2#32 0#32))).da.staging = Image.boot := by
  decide +kernel

theorem test_lock : (nextOf (exec .lock (commanded linked 3#32 0#32))).da.lock = true := by decide +kernel

theorem test_clearAll :
    let s := commanded (flagged true false) 4#32 0#32
    let t := nextOf (exec .clearAll { s with da := { s.da with active := worked, generation := 4#16 } })
    t.da.active = Image.boot ∧ t.da.lock = false ∧ t.da.generation = 0#16 := by decide +kernel

theorem test_portEnable :
    let t := nextOf (exec .portEnable (commanded linked 0x10#32 3#32))
    (t.port 3).state = .linking ∧ (t.port 3).linkTimer = some 20000 ∧ t.mu.last = ⟨0x10#8, .ok, 0x103#32⟩ := by
  decide +kernel

/-- A write of 0 to the enable word drains a port with an entry (R97, R108). -/
theorem test_portDisable :
    let t := nextOf (exec .portDisable (managed (withEntry (withPort linked 1 (portIn .active)) 0 (entryIn .expired 1))
      (writeOf 0x110#32 0#32)))
    (t.port 1).state = .draining ∧ (t.port 1).sent = [grantSymbol .ntf 0#8] := by decide +kernel

theorem test_portRestart :
    (nextOf (exec .portRestart (commanded linked 0x12#32 0#32))).mu.last = ⟨0x12#8, .refused, 0#32⟩
      ∧ ((nextOf (exec .portRestart (commanded (withPort linked 0 (portIn .faulted)) 0x12#32 0#32))).port 0).state
        = .linking := by decide +kernel

/-- Bits above 7 of the argument are ignored (R178). -/
theorem test_captureClear :
    let s := commanded linked 0x20#32 0x104#32
    let t := nextOf (exec .captureClear { s with da := { s.da with
      cells := s.da.cells.map (fun c => { c with full := true }) } })
    (t.da.cells.get 2).full = false ∧ (t.da.cells.get 0).full = true ∧ t.mu.last.detail = 4#32 := by decide +kernel

theorem test_counterClear :
    let s := commanded (withPort linked 2 { portIn .active with late := 7#32 }) 0x21#32 0#32
    let t := nextOf (exec .counterClear { s with ev := { s.ev with upBad := 5#32 } })
    (t.port 2).late = 0#32 ∧ t.ev.upBad = 0#32 := by decide +kernel

/-- The example argument of 11.4 names no port, and code 0 names no command. -/
theorem test_unknownCommand :
    (nextOf (exec .unknownCommand (commanded linked 0x10#32 0x100#32))).mu.last = ⟨0x10#8, .refused, 0x100#32⟩
      ∧ (nextOf (exec .unknownCommand (commanded linked 0#32 0#32))).mu.last = ⟨0#8, .refused, 0#32⟩ := by decide +kernel

/-- The state of 9.9 as S is served, with M1 alone behind it. -/
def resetting : State :=
  let s := accepted linked [⟨2#4, 10#6⟩, ⟨0#4, 21#6⟩]
  { s with mu := { s.mu with
    queue := [writeOf 0x41#32 0x30#32, { ask .read 1#7 0xFFFF0000#32 [] with pair := ⟨0#4, 21#6⟩ }] } }

theorem test_segmentReset :
    let t := nextOf (exec .segmentReset resetting)
    t.up.egress = [.rsp (plainRsp ⟨0#4, 21#6⟩ .aborted)] ∧ t.up.live = [⟨2#4, 10#6⟩] ∧ t.up.pause = true
      ∧ t.mu.cmd = .executing .traffic ⟨2#4, 10#6⟩ ∧ t.mu.aborts = 1 := by decide +kernel

/-- A SEGMENT-RESET before one of its phases. -/
def inPhase (phase : ResetPhase) (aborts : Nat) : State :=
  let s := accepted linked [⟨0#4, 20#6⟩, ⟨2#4, 10#6⟩]
  { s with
    up := { s.up with pause := true, reqCredit := 0 }
    mu := { s.mu with cmd := .executing phase ⟨0#4, 20#6⟩, aborts := aborts } }

/-- 9.9: the OPEN entry is answered ABORTED, and the PARKED port 2 enters LINKING with the others. -/
theorem test_trafficPhase :
    let t := nextOf (exec .trafficPhase (withPort (withEntry (withPort (inPhase .traffic 1) 1 (portIn .active)) 0
      (entryIn .opened 1)) 2 (portIn .parked)))
    t.up.egress = [.rsp (plainRsp ⟨2#4, 10#6⟩ .aborted)] ∧ t.mu.aborts = 2 ∧ (t.port 1).state = .linking
      ∧ (t.port 2).state = .linking ∧ (t.port 3).state = .disabled := by decide +kernel

theorem test_capturePhase :
    let s := inPhase .capture 1
    ((nextOf (exec .capturePhase { s with da := { s.da with
      cells := s.da.cells.map (fun c => { c with full := true, hold := true }) } })).da.cells.get 7)
      = { Cell.powerOn with hold := true } := by decide +kernel

/-- 9.9: OK for S, and abort count 6 in the last result. -/
theorem test_segmentResetCompletion :
    let t := nextOf (exec .segmentResetCompletion (inPhase .completion 6))
    t.up.egress = [.rsp (plainRsp ⟨0#4, 20#6⟩ .ok)] ∧ t.mu.last = ⟨0x30#8, .ok, 6#32⟩ ∧ t.up.pause = false := by
  decide +kernel

/-- The identity region's first words (11.4), read in one request. -/
theorem test_managementRead :
    (nextOf (exec .managementRead (managed linked (ask .read 2#7 0xFFFF0000#32 [])))).up.egress
      = [.rsp { pair := ⟨2#4, 10#6⟩, status := .ok, length := 2#7, payload := [0x464#32, 1#32] }] := by decide +kernel

/-! ### Witnesses: states and operands that meet every hypothesis of each obligation

Where the clauses of a statement divide its cases, one state is given for each, at the ends of a range. -/

theorem witness_StepTakesFrontCommand :
    ({ linked with pending := [.tick, .decode] }).pending = .tick :: [.decode] ∧ linked.pending = [] := by decide

theorem witness_PinResetKeepsByRetainAndLock :
    ((flagged true false).da.lock = true ∧ (flagged true true).da.lock = true)
    ∧ ((flagged false true).da.lock = false ∧ (flagged false true).da.retain = true)
    ∧ ((flagged false false).da.lock = false ∧ (flagged false false).da.retain = false)
    ∧ ((flagged false true).port 0).state = .disabled
    ∧ ((withPort (flagged true true) 3 (portIn .draining)).port 3).state ≠ .disabled := by decide +kernel

theorem witness_TickCountsEveryTimer :
    (linked.entry 31).state = .free ∧ ((withEntry linked 31 (entryIn .expired 3)).entry 31).state ≠ .free := by
  decide +kernel

/-- A link whose HELLO interval has run out. -/
def helloDue : State := { State.reset with up := { State.reset.up with hello := some 0 } }

theorem witness_HelloTimersResend :
    (helloDue.up.link = .linking ∧ helloDue.up.hello = some 0)
    ∧ ¬ (State.reset.up.link = .linking ∧ State.reset.up.hello = some 0)
    ∧ (((withPort linked 3 (linkingPort 1 0)).port 3).state = .linking
      ∧ ((withPort linked 3 (linkingPort 1 0)).port 3).helloTimer = some 0)
    ∧ ¬ (((withPort linked 3 (linkingPort 1 1)).port 3).state = .linking
      ∧ ((withPort linked 3 (linkingPort 1 1)).port 3).helloTimer = some 0) := by decide +kernel

theorem witness_ControllerHelloBringsLinkUp : State.reset.up.link = .linking := by decide

theorem witness_UpstreamLossFlushesTraffic :
    linked.up.link = .up ∧ State.reset.up.link = .linking
      ∧ Instr.upstreamHello 0#13 (symbolCheck .hello 0#13) ∈
        ([.upstreamLinkLoss .symbolLock, .upstreamHello 0#13 (symbolCheck .hello 0#13)] : List Instr) := by
  decide +kernel

/-- A READ of `length` words from source 2, tag 10. -/
def readFrame (length : Nat) : List Word := withCheck [0x08A00000#32 ||| countAt 7 length 11, 0xFFFF0000#32]

/-- Lengths 1 and 64 are in range and 0 and 65 outside, under tags live and not. -/
theorem witness_RequestFrameAcceptedOrAnswered :
    linked.up.link = .up ∧ linked.up.pause = false ∧ 1 ≤ linked.up.room
    ∧ 1 ≤ ({ linked.up with reservations := 39 }).room
    ∧ (∀ k ∈ [0, 1, 64, 65], frameOk (readFrame k) = true ∧ frameClass (readFrame k) = some .req)
    ∧ (∀ k ∈ [1, 64], Opcode.ofCode (readReq (readFrame k)).opcode = some .read
      ∧ 1 ≤ (readReq (readFrame k)).length.toNat ∧ (readReq (readFrame k)).length.toNat ≤ 64
      ∧ (readReq (readFrame k)).payload.length = payloadWords .read (readReq (readFrame k)).length)
    ∧ (readReq (readFrame 0)).length.toNat = 0 ∧ (readReq (readFrame 65)).length.toNat = 65
    ∧ (readReq (readFrame 1)).pair ∉ linked.up.live
    ∧ (readReq (readFrame 1)).pair ∈ (accepted linked [⟨2#4, 10#6⟩]).up.live := by decide +kernel

theorem witness_UpstreamFrameDiscarded :
    State.reset.up.link = .linking
    ∧ (linked.up.link = .up ∧ frameOk [] = false ∧ frameClass (withCheck [0x40000000#32]) ≠ some .req
      ∧ frameClass (withCheck [0xC0000000#32]) = none)
    ∧ (frameOk (readFrame 1) = true ∧ frameClass (readFrame 1) = some .req
      ∧ ({ linked.up with pause := true }).pause = true ∧ ({ linked.up with reservations := 40 }).room = 0) := by
  decide +kernel

/-- The egress queue of the GRANT clauses: a response, then a notification. -/
def waiting (rsp ntf : Credit) (frames : List UpFrame) : State :=
  { linked with up := { linked.up with rspCredit := rsp, ntfCredit := ntf, egress := frames } }

theorem witness_EgressQueueSentOnCredit :
    grantClass 0x0801#13 = some .rsp ∧ grantClass 0x10FF#13 = some .ntf ∧ grantClass 0#13 = some .req
    ∧ grantClass 0x1800#13 = none ∧ linked.up.link = .up ∧ State.reset.up.link = .linking
    ∧ (waiting (.counted 1) .zero [.rsp (plainRsp ⟨0#4, 1#6⟩ .ok)]).up.rspCredit.allows = true
    ∧ (waiting .zero (.counted 254) [.ntf someNtf]).up.ntfCredit.allows = true
    ∧ (let s := waiting .zero .unlimited [.rsp (plainRsp ⟨0#4, 1#6⟩ .ok), .ntf someNtf]
       s.up.egress.head? = some (.rsp (plainRsp ⟨0#4, 1#6⟩ .ok))
        ∧ (s.up.creditFor (.rsp (plainRsp ⟨0#4, 1#6⟩ .ok))).allows = false)
    ∧ linked.up.egress = [] := by decide +kernel

theorem witness_ControllerParksAndWakes : linked.up.link = .up ∧ State.reset.up.link = .linking := by decide

/-- A notification waits at ports 0 and 3 and a record at EQ. -/
def claiming (next : Claimant) : State :=
  let s := withPort (withPort linked 0 { portIn .active with ntfBuf := some someNtf }) 3
    { portIn .active with ntfBuf := some someNtf }
  { s with
    up := { s.up with claim := next }
    ev := { s.ev with queue := [⟨.linkUp, .nowhere, none, 0#32, 0#32⟩] } }

theorem witness_ClaimsTakenInTurn :
    (claiming (.port 0)).nextClaim = some (.port 0) ∧ ((claiming (.port 0)).port 0).ntfBuf = some someNtf
    ∧ (claiming (.port 1)).nextClaim = some (.port 3) ∧ ((claiming (.port 1)).port 3).ntfBuf = some someNtf
    ∧ (claiming .events).nextClaim = some .events
    ∧ (claiming .events).ev.queue = ⟨.linkUp, .nowhere, none, 0#32, 0#32⟩ :: []
    ∧ linked.nextClaim ≠ some (.port 0) ∧ linked.nextClaim ≠ some .events := by decide +kernel

/-- Sequences A, B, C and C′ of 1.9: no select, one, two, and the recovery path. -/
theorem witness_OutcomeFromAssertedSelects :
    let sels := fun r : Request => worked.assertedSelects (worked.hitting 0#8 r)
    let c : Request := { ask .read 1#7 0xFFFF0010#32 [] with pair := ⟨5#4, 3#6⟩ }
    sels (ask .write 4#7 0x0020F100#32 []) = [] ∧ Select.ofCode worked.defaultSelect = some .reject ∧ sels (ask .read 4#7 0x0020F100#32 []) = [.port 2]
    ∧ 2 ≤ (sels c).length ∧ linked.da.rcvEn = false
    ∧ (({ linked.da with rcvSrc := 5#4, rcvEn := true }).rcvEn = true ∧ 0xFFFF0000 ≤ (0xFFFF0000#32).toNat
      ∧ 0xFFFF0000 ≤ (0xFFFFFFFF#32).toNat) := by decide +kernel

/-- The boot image with port 2 as its default. -/
def defaulting : Image := { Image.boot with defaultSelect := 2#3 }

/-- Both ends of the range, one word past each, and the rights that window 7 gives and does not; a governing term with a
window, one without, and a default port. -/
theorem witness_WindowChecksThenTranslates :
    let inside := fun r : Request => window7.base.toNat ≤ r.addr.toNat
      ∧ r.addr.toNat + r.length.toNat - 1 ≤ window7.base.toNat + 2 ^ window7.exponent.toNat - 1
    window7.fault = none ∧ inside (ask .read 1#7 0x00040000#32 []) ∧ inside (ask .read 64#7 0x00040FC0#32 [])
    ∧ ¬ inside (ask .read 64#7 0x00040FC1#32 []) ∧ ¬ inside (ask .read 1#7 0x0003FFFF#32 [])
    ∧ window7.readAllowed = true ∧ window7.writeAllowed = false
    ∧ (let r := ask .read 4#7 0x0020F100#32 []
       let s := decoding linked worked r
       s.routeOf r = .asserted (.port 2) ∧ worked.governing (s.hitsOf r) (.port 2) = some 4
        ∧ (worked.terms.get 4).windowPresent = true)
    ∧ (let r : Request := { ask .read 1#7 0xF0000000#32 [] with pair := ⟨5#4, 3#6⟩ }
       let s := decoding linked worked r
       s.routeOf r = .asserted (.port 0) ∧ worked.governing (s.hitsOf r) (.port 0) = some 9
        ∧ (worked.terms.get 9).windowPresent = false)
    ∧ (let r := ask .read 1#7 0x20#32 []
       (decoding linked defaulting r).routeOf r = .byDefault (.port 2)) := by decide +kernel

/-- A full input queue of MU. -/
def fullMu (s : State) : State :=
  { s with mu := { s.mu with queue := List.replicate 4 (ask .read 1#7 0xFFFF0000#32 []) } }

theorem witness_DecodeAnswersOrHandsToManagement :
    let mine := ask .read 1#7 0xFFFF0000#32 []
    let bad := ask .write 1#7 0x00040010#32 [0#32]
    let c : Request := { ask .read 1#7 0xFFFF0010#32 [] with pair := ⟨5#4, 3#6⟩ }
    linked.da.intake = []
    ∧ ((decoding linked translating bad).da.intake = bad :: []
      ∧ (decoding linked translating bad).verdictOf bad = .refuse .protectedAccess)
    ∧ ((decoding linked Image.boot mine).verdictOf mine = .toMgmt ∧ linked.mu.cmd = .idle
      ∧ linked.mu.queue.length < 4 ∧ (fullMu linked).mu.cmd = .idle ∧ 4 ≤ (fullMu linked).mu.queue.length
      ∧ (inPhase .traffic 0).mu.cmd ≠ .idle)
    ∧ (decoding linked worked c).routeOf c = .conflict [.port 0, .mgmt]
    ∧ (decoding linked Image.boot mine).routeOf mine = .asserted .mgmt
    ∧ (decoding linked Image.boot bad).routeOf bad = .byDefault .reject := by decide +kernel

/-- Sequence B of 1.9 with port 2 in a state, and entries and a hold queue beside it. -/
def forwarding (st : PortState) (held : List Request) : State :=
  withHold (withPort (decoding linked worked (ask .read 4#7 0x0020F100#32 [])) 2
    { portIn st with limit := 1#5 }) 2 held

/-- Every entry OPEN for port 0. -/
def noneFree (s : State) : State := { s with tt := { s.tt with entries := Table.replicate 32 (entryIn .opened 0) } }

theorem witness_DecodedPortRequestByPortState :
    let r := ask .read 4#7 0x0020F100#32 []
    let four := List.replicate 4 r
    (∀ st ∈ [PortState.disabled, .linking, .draining, .faulted, .parked, .waking, .active],
      (forwarding st []).da.intake = r :: [] ∧ (forwarding st []).verdictOf r = .toPort 2 0x0000F100#32
        ∧ ((forwarding st []).port 2).state = st)
    ∧ ((forwarding .waking four).hold 2).length = 4
    ∧ ((forwarding .active []).hold 2 = []
      ∧ (forwarding .active []).tt.count 2 < ((forwarding .active []).port 2).limit.toNat
      ∧ (forwarding .active []).tt.lowestFree = some 0)
    ∧ (noneFree (forwarding .active [])).tt.lowestFree = none
    ∧ ¬ (withEntry (forwarding .active []) 0 (entryIn .expired 2)).tt.count 2
      < ((forwarding .active []).port 2).limit.toNat := by decide +kernel

/-- Request 2 of 3.8 with cell 3 as given. -/
def loading (x : Cell) : State := { arming with da := { arming.da with cells := arming.da.cells.set 3 x } }

theorem witness_CaptureLoadByModeAndHold :
    let r := ask .write 2#7 0x00100040#32 [0#32, 0#32]
    let names : State → CellNo → TermNo → Bool := fun s c n => (s.da.active.terms.get n).hits s.da.fullCells r
      && (s.da.active.terms.get n).capturePresent && (s.da.active.terms.get n).cell.toNat = c.val
    arming.da.intake = r :: [] ∧ exec .decode arming = .next (nextOf (exec .decode arming))
    ∧ names arming 3 10 = true ∧ (∀ m : TermNo, m < 10 → names arming 3 m = false)
    ∧ (∀ n : TermNo, names arming 0 n = false)
    ∧ ((loading { Cell.powerOn with hold := true }).da.cells.get 3).hold = true
    ∧ (let x := (loading { Cell.powerOn with full := true }).da.cells.get 3
       x.mode = .latch ∧ x.full = true)
    ∧ (let x := (loading { Cell.powerOn with mode := .track, full := true, loads := 0xFFFF#16 }).da.cells.get 3
       x.hold = false ∧ x.mode = .track ∧ x.loads = 0xFFFF#16) := by
  refine ⟨?_, rfl, ?_⟩ <;> decide +kernel

theorem witness_DecodeCountsHitsAndOutcome :
    let c : Request := { ask .read 1#7 0xFFFF0010#32 [] with pair := ⟨5#4, 3#6⟩ }
    let span := ask .read 1#7 0x0003FFFF#32 []
    arming.da.intake = ask .write 2#7 0x00100040#32 [0#32, 0#32] :: []
    ∧ exec .decode arming = .next (nextOf (exec .decode arming))
    ∧ (decoding linked translating span).routeOf span = .asserted (.port 3)
    ∧ (decoding linked translating span).verdictOf span = .refuse .span
    ∧ (decoding linked worked c).routeOf c = .conflict [.port 0, .mgmt]
    ∧ (decoding linked Image.empty c).routeOf c = .byDefault .reject
    ∧ ({ linked with da := { linked.da with rcvSrc := 5#4, rcvEn := true } }).routeOf c = .recovery := by
  refine ⟨?_, rfl, ?_⟩ <;> decide +kernel

theorem witness_BootImageServesManagementOnly :
    State.reset.da.active = Image.boot ∧ 0xFFFF0000 ≤ (0xFFFF0000#32).toNat ∧ 0xFFFF0000 ≤ (0xFFFFFFFF#32).toNat
    ∧ (0xFFFEFFFF#32).toNat < 0xFFFF0000 ∧ (0#32).toNat < 0xFFFF0000
    ∧ (decoding linked Image.empty (ask .read 1#7 0#32 [])).da.active = Image.empty
    ∧ linked.da.recovers (ask .read 1#7 0xFFFF0000#32 []) = false := by decide +kernel

theorem witness_DecodeRecordsCapturesThenConflict :
    let c : Request := { ask .read 1#7 0xFFFF0010#32 [] with pair := ⟨5#4, 3#6⟩ }
    (decoding linked worked c).routeOf c = .conflict [.port 0, .mgmt]
    ∧ (∀ sels ∈ ([[], [.port 0, .mgmt]] : List (List Select)),
        arming.routeOf (ask .write 2#7 0x00100040#32 [0#32, 0#32]) ≠ .conflict sels) := by decide +kernel

theorem witness_DownstreamFrameDiscarded :
    (∀ st ∈ [PortState.disabled, .linking, .faulted, .active, .parked, .waking, .draining],
      ((withPort linked 3 (portIn st)).port 3).state = st)
    ∧ frameOk [0#32] = false ∧ frameClass (readFrame 1) = some .req ∧ frameClass [0xC0000000#32] = none := by
  decide +kernel

/-- A response of a target, by tag, status code and payload. -/
def targetFrame (tag : Nat) (code : BitVec 8) (payload : List Word) : List Word :=
  withCheck ((0x40000000#32 ||| countAt 6 tag 20 ||| fieldAt code 12 ||| countAt 7 payload.length 5) :: payload)

theorem witness_ForwardedResponseByStatus :
    (entryIn .opened 1).opcode = .read
    ∧ ((readRsp (targetFrame 0 0#8 [1#32, 2#32])).status = some .ok
      ∧ (readRsp (targetFrame 0 0#8 [1#32, 2#32])).payload.length = (entryIn .opened 1).length.toNat)
    ∧ (readRsp (targetFrame 0 0#8 [1#32])).payload.length ≠ (entryIn .opened 1).length.toNat
    ∧ ({ entryIn .opened 1 with opcode := .modify }).opcode ≠ .read
    ∧ (readRsp (targetFrame 0 14#8 [])).status = some .invalidImage
    ∧ (readRsp (targetFrame 0 15#8 [])).status = none := by decide +kernel

theorem witness_ResponseEndsItsEntry :
    (∀ n : EntryNo, n = 0 ∨ n = 31 → frameOk (targetFrame n.val 0#8 [1#32]) = true
      ∧ frameClass (targetFrame n.val 0#8 [1#32]) = some .rsp
      ∧ (readRsp (targetFrame n.val 0#8 [1#32])).tag.toNat = n.val
      ∧ (∀ st ∈ [EntryState.opened, .expired], ∀ ps ∈ [PortState.active, .draining],
          ((withEntry (withPort linked 1 (portIn ps)) n (entryIn st 1)).port 1).state = ps
          ∧ ((withEntry (withPort linked 1 (portIn ps)) n (entryIn st 1)).entry n).port = 1
          ∧ ((withEntry (withPort linked 1 (portIn ps)) n (entryIn st 1)).entry n).state = st)) := by
  decide +kernel

theorem witness_StrayResponseDiscarded :
    (∀ tag ∈ [0, 31, 32, 63], frameOk (targetFrame tag 0#8 []) = true
      ∧ frameClass (targetFrame tag 0#8 []) = some .rsp ∧ (readRsp (targetFrame tag 0#8 [])).tag.toNat = tag)
    ∧ (linked.entry 31).state = .free
    ∧ (∀ st ∈ [EntryState.opened, .expired],
        ((withEntry linked 31 (entryIn st 0)).entry 31).state = st
        ∧ ((withEntry linked 31 (entryIn st 0)).entry 31).port ≠ 1)
    ∧ ((withPort linked 1 (portIn .active)).port 1).state = .active
    ∧ ((withPort linked 1 (portIn .draining)).port 1).state = .draining := by decide +kernel

/-- A notification of a target, by its length field and its payload. -/
def ntfFrame (length : Nat) (payload : List Word) : List Word :=
  withCheck ((0x80000000#32 ||| countAt 4 length 19) :: payload)

theorem witness_TargetNotificationTaken :
    let len := fun f : List Word => ((headerWord f).extractLsb' 19 4).toNat
    (∀ f ∈ [ntfFrame 0 [], ntfFrame 1 [5#32], ntfFrame 8 (List.replicate 8 5#32), ntfFrame 9 (List.replicate 8 5#32),
        ntfFrame 2 [5#32]], frameOk f = true ∧ frameClass f = some .ntf)
    ∧ len (ntfFrame 0 []) = 0 ∧ len (ntfFrame 1 [5#32]) = 1 ∧ len (ntfFrame 9 []) = 9
    ∧ len (ntfFrame 8 (List.replicate 8 5#32)) = 8
    ∧ (portIn .active).notify = true ∧ (portIn .active).ntfBuf = none
    ∧ ({ portIn .active with notify := false }).notify = false
    ∧ ({ portIn .active with ntfBuf := some someNtf }).ntfBuf ≠ none := by decide +kernel

/-- A malformed notification received while DRAINING rises in both counters (R102, R115). -/
theorem test_malformed_while_draining :
    let q := (nextOf (exec (.downstreamFrame 1 (ntfFrame 9 [])) (withPort linked 1 (portIn .draining)))).port 1
    q.discarded = 1#32 ∧ q.bad = 1#32 ∧ q.ntfBuf = none := by decide +kernel

theorem witness_FarEndWakesPort :
    (∀ st ∈ [PortState.parked, .waking, .active, .faulted], ((withPort linked 1 (portIn st)).port 1).state = st)
    ∧ (∀ n : EntryNo, ((withPort linked 1 (portIn .parked)).entry n).state = .free)
    ∧ frameOk (targetFrame 63 0#8 []) = true ∧ frameClass (targetFrame 63 0#8 []) = some .rsp
    ∧ frameOk (ntfFrame 1 [5#32]) = true ∧ frameClass (ntfFrame 1 [5#32]) = some .ntf := by decide +kernel

theorem witness_EntryTimersExpireThenFree :
    (∀ st ∈ [EntryState.opened, .expired], ((withEntry linked 31 (entryIn st 1)).entry 31).state = st
      ∧ ((withEntry linked 31 (entryIn st 1)).entry 31).timer = 0)
    ∧ ((withEntry linked 31 { entryIn .opened 1 with timer := 1 }).entry 31).timer ≠ 0
    ∧ ((withPort linked 1 (portIn .draining)).port 1).state = .draining
    ∧ (∀ m : EntryNo, ((withPort linked 1 (portIn .draining)).entry m).state = .free)
    ∧ (linked.port 1).state ≠ .draining
    ∧ ((withEntry linked 0 (entryIn .opened 1)).entry 0).port = 1 := by decide +kernel

/-- A waiting ACTIVE port, the pointer standing at port `rr`. -/
def waitingPort (rr : PortNo) : State :=
  let s := withHold (withPort linked 3 (portIn .active)) 3 [ask .read 1#7 0#32 []]
  { s with tt := { s.tt with rr := rr } }

theorem witness_IssuingPassServesWaitingPorts :
    (∀ rr : PortNo, (waitingPort rr).arbiterChoice = some 3 ∧ (waitingPort rr).tt.lowestFree = some 0
      ∧ (waitingPort rr).hold 3 = ask .read 1#7 0#32 [] :: [])
    ∧ ((waitingPort 0).issuingPass.port 3).state = .active
    ∧ linked.arbiterChoice = none ∧ (noneFree (waitingPort 0)).tt.lowestFree = none := by decide +kernel

theorem witness_SendSlotSentOnCredit :
    grantClass 0#13 = some .req ∧ grantClass 0x0800#13 ≠ some .req
    ∧ (∀ st ∈ [PortState.active, .parked, .waking, .draining, .disabled],
        ((withPort linked 1 { portIn st with slot := [slotItem] }).port 1).state = st
        ∧ ((withPort linked 1 { portIn st with slot := [slotItem] }).port 1).slot = slotItem :: [])
    ∧ (portIn .active).credit.allows = true ∧ (portIn .active).slot = []
    ∧ ({ portIn .active with credit := .zero }).credit.allows = false := by decide +kernel

theorem witness_TimersRunOutFaultPort :
    (let q := (withPort linked 1 (linkingPort 0 1)).port 1
     q.state = .linking ∧ q.linkTimer = some 0)
    ∧ (let q := (withPort linked 1 { portIn .waking with wakeTimer := some 0 }).port 1
       q.state = .waking ∧ q.wakeTimer = some 0)
    ∧ (linkingPort 1 1).linkTimer ≠ some 0 ∧ (portIn .waking).wakeTimer ≠ some 0 := by decide +kernel

theorem witness_TargetHelloActivatesPort :
    ∀ st ∈ [PortState.linking, .disabled, .faulted], ((withPort linked 1 (portIn st)).port 1).state = st := by
  decide +kernel

theorem witness_DownstreamLossAnswersTargetLost :
    ∀ st ∈ [PortState.active, .parked, .waking, .draining, .disabled, .linking, .faulted],
      ((withPort linked 1 (portIn st)).port 1).state = st := by decide +kernel

theorem witness_IdlePortParks :
    let s := withPort linked 1 { portIn .active with idleInterval := 1#8, idleTimer := some 0 }
    (s.port 1).idleTimer = some 0 ∧ (s.port 1).state = .active
    ∧ (∀ n : EntryNo, (s.entry n).state ≠ .free → (s.entry n).port ≠ 1) ∧ s.hold 1 = []
    ∧ (s.port 1).idleInterval ≠ 0#8 ∧ (linked.port 1).idleTimer ≠ some 0 := by decide +kernel

/-- A command at the head of MU's queue: MU is IDLE, and the request carries the code with the argument. -/
abbrev Carries (s : State) (code : Word) (arg : Nat) : Prop :=
  s.mu.cmd = .idle ∧ s.mu.queue = writeOf 0x41#32 code :: [] ∧ (writeOf 0x41#32 code).commandCode = some code
    ∧ s.mu.arg.toNat = arg

theorem witness_PortEnableByState :
    ∀ st ∈ [PortState.disabled, .faulted, .draining, .linking, .active, .parked, .waking],
      let s := commanded (withPort linked 3 (portIn st)) 0x10#32 3#32
      Carries s 0x10#32 3 ∧ (s.port 3).state = st := by decide +kernel

theorem witness_PortDisableByState :
    (∀ st ∈ [PortState.disabled, .faulted, .draining, .linking, .active, .parked, .waking],
      let s := commanded (withPort linked 0 (portIn st)) 0x11#32 0#32
      Carries s 0x11#32 0 ∧ (s.port 0).state = st
        ∧ (∀ n : EntryNo, (s.entry n).state ≠ .free → (s.entry n).port ≠ 0))
    ∧ (let s := commanded (withEntry (withPort linked 0 (portIn .active)) 31 (entryIn .expired 0)) 0x11#32 0#32
       Carries s 0x11#32 0 ∧ (s.port 0).state = .active
        ∧ ¬ (∀ n : EntryNo, (s.entry n).state ≠ .free → (s.entry n).port ≠ 0)) := by decide +kernel

theorem witness_PortRestartAbortsAndRelinks :
    ∀ st ∈ [PortState.disabled, .linking], let s := commanded (withPort linked 2 (portIn st)) 0x12#32 2#32
      Carries s 0x12#32 2 ∧ (s.port 2).state = st := by decide +kernel

/-- The last word of the window and one past it, the command word alone and in a longer span, and both ends of the
staging region. -/
theorem witness_ManagementReadAnswersWords :
    let inside := fun r : Request => 0xFFFF0000 ≤ r.addr.toNat ∧ r.addr.toNat + r.length.toNat - 1 ≤ 0xFFFFFFFF
    let at_ := fun (len : BitVec 7) (a : Word) => ask .read len a []
    (∀ r ∈ [at_ 1#7 0xFFFFFFFF#32, at_ 64#7 0xFFFFFFC0#32, at_ 1#7 0xFFFF0041#32, at_ 2#7 0xFFFF0040#32,
        at_ 1#7 0xFFFF1000#32, at_ 2#7 0xFFFF0FFF#32, at_ 1#7 0xFFFF1241#32, at_ 1#7 0xFFFF1242#32],
      (managed linked r).mu.cmd = .idle ∧ (managed linked r).mu.queue = r :: [] ∧ r.opcode = .read
        ∧ 1 ≤ r.length.toNat ∧ inside r)
    ∧ ¬ inside (at_ 2#7 0xFFFFFFFF#32) ∧ ¬ inside (at_ 1#7 0xFFFEFFFF#32)
    ∧ (flagged true false).da.lock = true ∧ (flagged false false).da.lock = false
    ∧ (inPhase .traffic 0).mu.cmd ≠ .idle ∧ linked.mu.queue = []
    ∧ (managed linked (writeOf 8#32 0#32)).mu.queue.head? = some (writeOf 8#32 0#32)
    ∧ (writeOf 8#32 0#32).opcode ≠ .read := by decide +kernel

/-- One access for each command of the table that can serve one, and one for each check that refuses. -/
theorem witness_ManagementWriteChecksThenWrites :
    let rows : List (Request × Instr) :=
      [(writeOf 8#32 1#32, .managementWrite), (writeOf 0x1000#32 1#32, .stagingWrite),
       (writeOf 0x1241#32 1#32, .stagingWrite), (writeOf 0x101#32 1#32, .portConfigurationWrite),
       (writeOf 0x136#32 1#32, .portConfigurationWrite), (writeOf 0xA#32 1#32, .eventOverflowClear),
       (writeOf 0x130#32 1#32, .portEnable), (writeOf 0x100#32 0#32, .portDisable),
       (ask .write 1#7 0xFFFEFFFF#32 [0#32], .managementWrite),
       (ask .write 2#7 0xFFFFFFFF#32 [0#32, 0#32], .managementWrite),
       (ask .write 2#7 0xFFFF0040#32 [0#32, 0#32], .managementWrite)]
    (∀ x ∈ rows, (managed linked x.1).mu.cmd = .idle ∧ (managed linked x.1).mu.queue = x.1 :: []
      ∧ x.1.opcode ≠ .read ∧ x.1.commandCode = none ∧ 1 ≤ x.1.length.toNat
      ∧ (managed linked x.1).rowServes x.1 x.2 = true)
    ∧ (flagged true false).da.lock = true ∧ (flagged false false).da.lock = false := by decide +kernel

/-- A write and a MODIFY, a limit raised and one lowered. -/
theorem witness_AccessWritesSpanInOrder :
    (writeOf 0x101#32 16#32).opcode ≠ .read
    ∧ (ask .modify 1#7 0xFFFF000A#32 [1#32, 1#32]).opcode ≠ .read
    ∧ 0xFFFF0000 ≤ (writeOf 0#32 1#32).addr.toNat
    ∧ (linked.port 0).limit.toNat < ((linked.writeWord 0x101 16#32).1.port 0).limit.toNat
    ∧ ((linked.writeWord 0x101 1#32).1.port 0).limit.toNat ≤ (linked.port 0).limit.toNat := by decide +kernel

/-- The first and last offset of the first hole and of the last, and one read-only word. -/
theorem witness_ManagementMapReadsAndWrites :
    (0x0B ≤ 0x0B ∧ 0x3F < 0x40 ∧ 0x2242 ≤ 0x2242 ∧ 0x2242 ≤ 0xFFFF ∧ (0x10E % 16 = 14)) ∧ 0x241 < 0x242
    ∧ (∀ off ∈ [0x00, 0x42, 0x107, 0x202, 0x440, 0x2000, 0xFFFF],
      off ∉ [0x02, 0x04, 0x08, 0x09, 0x0A, 0x40, 0x41] ∧ ¬ (0x100 ≤ off ∧ off < 0x140 ∧ off % 16 ≤ 6)
        ∧ ¬ (0x200 ≤ off ∧ off < 0x240 ∧ off % 8 ≤ 1) ∧ ¬ (0x1000 ≤ off ∧ off ≤ 0x1241)) := by decide

theorem witness_StagingWordsReadBackAsWritten :
    ∀ o ∈ [0, 4, 0x1FF, 0x200, 0x203, 0x23F, 0x240, 0x241], o < 0x242 := by decide

theorem witness_CommitSwapsValidBanks :
    Carries (committing Image.empty) 1#32 0
    ∧ (commanded (flagged true false) 1#32 0#32).da.lock = true ∧ (committing Image.empty).da.lock = false
    ∧ (committing Image.empty).da.staging.failure = none
    ∧ (committing (mistyped 0#3 0x00300000#32)).da.staging.failure = some (.term 17 .opcodes) := by decide +kernel

theorem witness_ValidationNamesFirstFailure :
    ({ Image.empty with defaultSelect := 6#3 }).failure = some (.header .defaultSelect)
    ∧ (mistyped 0#3 0x00300800#32).failure = some (.term 17 .opcodes)
    ∧ (mistyped 3#3 0x00300800#32).failure = some (.window 5 .align)
    ∧ (mistyped 3#3 0x00300000#32).failure = none := by decide +kernel

theorem witness_BankCommandsActWhole :
    Carries (commanded (flagged true false) 2#32 0#32) 2#32 0 ∧ Carries (commanded linked 2#32 0#32) 2#32 0
    ∧ Carries (commanded linked 3#32 0#32) 3#32 0 ∧ Carries (commanded (flagged true false) 4#32 0#32) 4#32 0
    ∧ linked.da.lock = false ∧ (flagged true false).da.lock = true := by decide +kernel

theorem witness_ClearCommandsClear :
    Carries (commanded linked 0x20#32 0x1FF#32) 0x20#32 0x1FF ∧ Carries (commanded linked 0x21#32 0#32) 0x21#32 0 := by
  decide +kernel

theorem witness_UnknownCommandRefused :
    let known : List Word := [0x01#32, 0x02#32, 0x03#32, 0x04#32, 0x10#32, 0x11#32, 0x12#32, 0x20#32, 0x21#32, 0x30#32]
    (Carries (commanded linked 0#32 0#32) 0#32 0 ∧ 0#32 ∉ known)
    ∧ (Carries (commanded linked 0x101#32 0#32) 0x101#32 0 ∧ 0x101#32 ∉ known)
    ∧ (Carries (commanded linked 0xFFFFFFFF#32 0#32) 0xFFFFFFFF#32 0 ∧ 0xFFFFFFFF#32 ∉ known)
    ∧ Carries (commanded linked 0x10#32 4#32) 0x10#32 4 ∧ Carries (commanded linked 0x11#32 0xFFFFFFFF#32) 0x11#32 0xFFFFFFFF
    ∧ Carries (commanded linked 0x12#32 3#32) 0x12#32 3 ∧ Carries (commanded linked 0x30#32 4#32) 0x30#32 4 := by
  decide +kernel

theorem witness_SegmentResetRunsItsPhases :
    (resetting.mu.cmd = .idle ∧ (writeOf 0x41#32 0x30#32).commandCode = some 0x30#32
      ∧ resetting.mu.queue.head? = some (writeOf 0x41#32 0x30#32))
    ∧ (inPhase .traffic 1).mu.cmd = .executing .traffic ⟨0#4, 20#6⟩
    ∧ (inPhase .capture 1).mu.cmd = .executing .capture ⟨0#4, 20#6⟩
    ∧ (inPhase .completion 1).mu.cmd = .executing .completion ⟨0#4, 20#6⟩
    ∧ (∀ w : Pair, linked.mu.cmd ≠ .executing .traffic w ∧ linked.mu.cmd ≠ .executing .capture w
      ∧ linked.mu.cmd ≠ .executing .completion w) := by
  refine ⟨by decide +kernel, rfl, rfl, rfl, fun w => ⟨?_, ?_, ?_⟩⟩ <;> exact fun h => CommandState.noConfusion h

theorem witness_ResponseReleasesReservation :
    let u := (accepted linked [⟨2#4, 10#6⟩]).up
    (plainRsp ⟨2#4, 10#6⟩ .ok).pair ∈ u.live ∧ u.Conserved ∧ (plainRsp ⟨3#4, 10#6⟩ .ok).pair ∉ u.live := by
  decide +kernel

theorem witness_EventRecordKeptOrDropped :
    let full : Events := { linked.ev with queue := List.replicate 8 ⟨.linkUp, .nowhere, none, 0#32, 0#32⟩ }
    linked.ev.mask.getLsbD 0 = true ∧ linked.ev.mask.getLsbD 1 = false ∧ linked.ev.queue.length < 8
    ∧ (full.queue.drop 1).length = 7 ∧ 8 ≤ full.queue.length := by decide +kernel

theorem witness_SymbolFailingCheckIgnored :
    ∀ ty ∈ [SymType.hello, .down, .grant, .park, .wake, .ready], symbolCheck ty 0#13 ^^^ 1#8 ≠ symbolCheck ty 0#13 := by
  decide +kernel

/-- A locked director with a CLEAR-ALL at the head of MU's queue. -/
def clearing : State := commanded (flagged true false) 4#32 0#32

theorem witness_LockedBanksStand :
    clearing.da.lock = true ∧ exec .tick clearing = .next (nextOf (exec .tick clearing)) ∧ Carries clearing 4#32 0 :=
  ⟨by decide +kernel, rfl, by decide +kernel⟩

/-- A request from its frame on, and the commands that carry it. -/
def busy : State :=
  let s := withEntry (withPort (decoding linked worked (ask .read 4#7 0x0020F100#32 [])) 2 (portIn .active)) 0
    { entryIn .opened 2 with pair := ⟨3#4, 1#6⟩ }
  { s with
    up := { s.up with live := [⟨2#4, 10#6⟩, ⟨3#4, 1#6⟩], reservations := 2, reqCredit := 38 }
    pending := [.decode] }

theorem witness_ActiveImageStaysValid : busy.da.active.Valid ∧ step busy = .next (nextOf (step busy)) :=
  ⟨by decide +kernel, rfl⟩

/-- The decode answers a pair; a frame received while the pairs are live. -/
theorem witness_LiveRequestsStayAccounted :
    (busy.up.Conserved ∧ busy.LiveInFlight ∧ busy.ResetHolds ∧ step busy = .next (nextOf (step busy))
      ∧ busy.pending.head? = some .decode ∧ busy.up.link = .up ∧ (nextOf (step busy)).up.link = .up)
    ∧ (let s := { busy with pending := [.reqFrameReceived (readFrame 1)] }
       s.up.Conserved ∧ s.LiveInFlight ∧ s.ResetHolds
        ∧ s.pending.head? = some (.reqFrameReceived (readFrame 1)) ∧ ⟨3#4, 1#6⟩ ∈ s.up.live) :=
  ⟨⟨by decide +kernel, by decide +kernel, ⟨rfl, rfl⟩, rfl, rfl, by decide +kernel, by decide +kernel⟩,
    by decide +kernel, by decide +kernel, ⟨rfl, rfl⟩, by decide +kernel, by decide +kernel⟩

theorem witness_EntriesStayOnLivePorts : busy.EntriesOnLivePorts ∧ step busy = .next (nextOf (step busy)) :=
  ⟨by decide +kernel, rfl⟩

theorem witness_HeldOnlyWhenWaitingKept :
    (busy.HeldOnlyWhenWaiting ∧ busy.QueuesBounded) ∧ step busy = .next (nextOf (step busy)) :=
  ⟨by decide +kernel, rfl⟩

theorem witness_RegistersStayLegal :
    ((∀ p, (busy.port p).TimersBelong) ∧ busy.up.HelloRuns ∧ busy.ConfigInRange ∧ busy.FreeEntriesBlank
      ∧ busy.da.EmptyCellsZero) ∧ step busy = .next (nextOf (step busy)) :=
  ⟨by decide +kernel, rfl⟩

end Sys2Proof.Tests
end

section
/-! PROOF. The decode's terms and selects (R3, R5 to R11, R14): when a term hits, which selects the hitting terms assert,
and the outcome these give. -/
namespace Sys2Proof.Machine

/-! ### Sets of bits -/

/-- Words agree under a mask when they agree at each bit of it. -/
theorem and_mask_eq_iff {w : Nat} {a b m : BitVec w} :
    (a &&& m) = (b &&& m) ↔ ∀ i : Nat, m.getLsbD i = true → a.getLsbD i = b.getLsbD i := by
  constructor
  · intro h i hi
    have hbit := congrArg (·.getLsbD i) h
    simpa [hi] using hbit
  · intro h
    refine BitVec.eq_of_getLsbD_eq fun i _ => ?_
    rw [BitVec.getLsbD_and, BitVec.getLsbD_and]
    cases hi : m.getLsbD i with
    | false => simp
    | true => simp [h i hi]

/-- Two sets of bits are disjoint when no bit of the one is in the other. -/
theorem and_eq_zero_iff {w : Nat} {x y : BitVec w} :
    x &&& y = 0#w ↔ ∀ c : Fin w, x.getLsbD c.val = true → y.getLsbD c.val = false := by
  constructor
  · intro h c hc
    have hbit := congrArg (·.getLsbD c.val) h
    simpa [hc] using hbit
  · intro h
    refine BitVec.eq_of_getLsbD_eq fun i hi => ?_
    rw [BitVec.getLsbD_and, BitVec.getLsbD_zero]
    cases hx : x.getLsbD i with
    | false => rfl
    | true => simp [h ⟨i, hi⟩ hx]

/-- A set of bits is inside another when it is disjoint from the complement. -/
theorem and_not_eq_zero_iff {w : Nat} {x y : BitVec w} :
    x &&& ~~~ y = 0#w ↔ ∀ c : Fin w, x.getLsbD c.val = true → y.getLsbD c.val = true := by
  simp [and_eq_zero_iff]

/-! ### The hits of a term (R5 to R8) -/

/-- The conditions of a hit, one by one, over any FULL set. -/
theorem Term.hits_iff {t : Term} {full : BitVec 8} {r : Request} : t.hits full r = true ↔
    t.valid = true
    ∧ (∀ i : Nat, t.mask.getLsbD i = true → r.addr.getLsbD i = t.value.getLsbD i)
    ∧ t.opcodes.getLsbD r.opcode.code.toNat = true
    ∧ t.sources.getLsbD r.pair.src.toNat = true
    ∧ (∀ c : CellNo, t.needFull.getLsbD c.val = true → full.getLsbD c.val = true)
    ∧ (∀ c : CellNo, t.needEmpty.getLsbD c.val = true → full.getLsbD c.val = false) := by
  rw [← and_mask_eq_iff, ← and_not_eq_zero_iff, ← and_eq_zero_iff]
  simp [Term.hits, and_assoc]

/-- Settles O13: the bits of the FULL set are the FULL flags of the cells, and an opcode's bit is its code of 11.1. -/
theorem termHitsWhenConditionsHold : Obligations.TermHitsWhenConditionsHold := by
  intro d t r
  rw [Term.hits_iff]
  simp only [Da.fullCells_getLsbD]
  cases r.opcode <;> rfl

/-! ### Asserted selects and the governing term (R9, R11) -/

theorem Select.mem_all (sel : Select) : sel ∈ Select.all := by
  cases sel with
  | port p => revert p; decide
  | mgmt => decide
  | reject => decide

theorem Select.all_nodup : Select.all.Nodup := by decide

theorem Term.assertsSel_iff {t : Term} {sel : Select} :
    t.assertsSel sel = true ↔ t.polarity = .assert ∧ Select.ofCode t.select = some sel := by
  simp [Term.assertsSel, Term.actsOn]

theorem Term.inhibitsSel_iff {t : Term} {sel : Select} :
    t.inhibitsSel sel = true ↔ t.polarity = .inhibit ∧ Select.ofCode t.select = some sel := by
  simp [Term.inhibitsSel, Term.actsOn]

theorem Image.mem_assertedSelects {im : Image} {hits : List TermNo} {sel : Select} :
    sel ∈ im.assertedSelects hits ↔ im.asserted hits sel = true := by
  simp [Image.assertedSelects, Select.mem_all]

theorem Image.asserted_iff {im : Image} {hits : List TermNo} {sel : Select} : im.asserted hits sel = true ↔
    (∃ n ∈ hits, (im.terms.get n).assertsSel sel = true) ∧ ¬ ∃ n ∈ hits, (im.terms.get n).inhibitsSel sel = true := by
  rw [Image.asserted, Bool.and_eq_true, Bool.not_eq_true', ← Bool.not_eq_true, List.any_eq_true, List.any_eq_true]

theorem Image.assertedSelects_nodup (im : Image) (hits : List TermNo) : (im.assertedSelects hits).Nodup :=
  Select.all_nodup.filter _

/-- The governing term is the lowest of the hits, which stand in ascending order, that asserts the select. -/
theorem Image.governing_hitting_iff {im : Image} {full : BitVec 8} {r : Request} {sel : Select} {g : TermNo} :
    im.governing (im.hitting full r) sel = some g ↔
      (g ∈ im.hitting full r ∧ (im.terms.get g).assertsSel sel = true)
      ∧ ∀ n, n < g → ¬ (n ∈ im.hitting full r ∧ (im.terms.get n).assertsSel sel = true) :=
  find?_ascending (im.hitting_sorted full r)

/-- Settles O14. -/
theorem selectAssertedUnlessInhibited : Obligations.SelectAssertedUnlessInhibited := by
  intro im hits sel
  rw [Image.mem_assertedSelects, Image.asserted_iff]
  simp only [Term.assertsSel_iff, Term.inhibitsSel_iff]

/-! ### The outcome (R3, R10, R14) -/

theorem Da.recovers_iff {d : Da} {r : Request} :
    d.recovers r = true ↔ d.rcvEn = true ∧ r.pair.src = d.rcvSrc ∧ 0xFFFF0000 ≤ r.addr.toNat := by
  rw [Da.recovers, Bool.and_eq_true, Bool.and_eq_true, decide_eq_true_eq, decide_eq_true_eq, and_assoc]
  rfl

theorem Da.route_of_recovers {d : Da} {hits : List TermNo} {r : Request} (h : d.recovers r = true) :
    d.route hits r = .recovery := if_pos h

section
variable {d : Da} {hits : List TermNo} {r : Request} (h : ¬ d.recovers r = true)
include h

theorem Da.route_of_none_asserted (hs : d.active.assertedSelects hits = []) :
    d.route hits r = .byDefault d.active.defaultSel := by
  rw [Da.route, if_neg h, hs]

theorem Da.route_of_one_asserted {sel : Select} (hs : d.active.assertedSelects hits = [sel]) :
    d.route hits r = .asserted sel := by
  rw [Da.route, if_neg h, hs]

theorem Da.route_of_more_asserted (hs : 2 ≤ (d.active.assertedSelects hits).length) :
    d.route hits r = .conflict (d.active.assertedSelects hits) := by
  rw [Da.route, if_neg h]
  match d.active.assertedSelects hits, hs with
  | _ :: _ :: _, _ => rfl

end

theorem Image.defaultSel_of_code {im : Image} {sel : Select} (h : Select.ofCode im.defaultSelect = some sel) :
    im.defaultSel = sel := by
  rw [Image.defaultSel, h, Option.getD_some]

/-- Settles O15, by the route on the recovery path and for no, one and more asserted selects. -/
theorem outcomeFromAssertedSelects : Obligations.OutcomeFromAssertedSelects := by
  intro d r hits sels recovery
  have hrec : d.recovers r = true ↔ recovery := Da.recovers_iff
  refine ⟨d.active.assertedSelects_nodup hits, fun h => ?_, fun h => ?_, fun sel g => ?_,
    fun n => Image.mem_hitting, by decide, fun sel => Image.defaultSel_of_code⟩
  · have hroute := Da.route_of_recovers (hits := hits) (hrec.2 h)
    exact ⟨hroute, by rw [hroute]; rfl⟩
  · have hoff := mt hrec.1 h
    exact ⟨Da.route_of_none_asserted hoff,
      fun sel hs hc => Image.defaultSel_of_code hc ▸ Da.route_of_none_asserted hoff hs,
      fun sel => Da.route_of_one_asserted hoff, Da.route_of_more_asserted hoff⟩
  · simp only [← Term.assertsSel_iff]
    exact Image.governing_hitting_iff

end Sys2Proof.Machine
end

section
/-! PROOF. The windows of an image (R28 to R38): what a checked window is, its span and rights checks, its translation,
and which window the decode applies. -/
namespace Sys2Proof.Machine

/-! ### A window by itself (R30, R33 to R36) -/

/-- A ladder of checks finds nothing exactly when its first check does not fire and the rest finds nothing. -/
theorem ite_some_eq_none_iff {α : Type} {c : Prop} [Decidable c] {why : α} {rest : Option α} :
    (if c then some why else rest) = none ↔ ¬ c ∧ rest = none := by
  by_cases h : c <;> simp [h]

/-- The properties of R30, one by one. -/
theorem Window.fault_eq_none_iff {w : Window} : w.fault = none ↔
    (4 ≤ w.exponent.toNat ∧ w.exponent.toNat ≤ 28)
    ∧ w.base.toNat % 2 ^ w.exponent.toNat = 0
    ∧ w.translated.toNat + 2 ^ w.exponent.toNat ≤ 2 ^ 32
    ∧ (w.readAllowed = true ∨ w.writeAllowed = true) := by
  simp only [Window.fault, ite_some_eq_none_iff]
  simp [or_iff_not_imp_left]

/-- The span check by the last word of the span and of the range. -/
theorem Window.spanOk_iff {w : Window} {r : Request} (hlen : 1 ≤ r.length.toNat) : w.spanOk r = true ↔
    w.base.toNat ≤ r.addr.toNat
    ∧ r.addr.toNat + r.length.toNat - 1 ≤ w.base.toNat + 2 ^ w.exponent.toNat - 1 := by
  have hpow : 0 < 2 ^ w.exponent.toNat := Nat.two_pow_pos _
  rw [Window.spanOk, Bool.and_eq_true, decide_eq_true_iff, decide_eq_true_iff]
  omega

/-- Every opcode but WRITE reads the target word and every opcode but READ writes it, so MODIFY wants both rights. -/
theorem Window.rightsOk_iff {w : Window} {op : Opcode} : w.rightsOk op = true ↔
    (op ≠ .write → w.readAllowed = true) ∧ (op ≠ .read → w.writeAllowed = true) := by
  cases op <;> simp [Window.rightsOk]

/-- Translation keeps the offset when the sum does not leave the 32 bits (R36). -/
theorem toNat_translate {base translated addr : Word} (hbase : base.toNat ≤ addr.toNat)
    (hfit : translated.toNat + (addr.toNat - base.toNat) < 2 ^ 32) :
    (translated + (addr - base)).toNat = translated.toNat + (addr.toNat - base.toNat) := by
  have hsub : (addr - base).toNat = addr.toNat - base.toNat := BitVec.toNat_sub_of_le hbase
  rw [BitVec.toNat_add_of_lt (hsub ▸ hfit), hsub]

section
variable {w : Window} {r : Request} (p : PortNo)

theorem Window.apply_of_not_spanOk (hspan : ¬ w.spanOk r = true) : w.apply p r = .refuse .span := by
  simp [Window.apply, hspan]

theorem Window.apply_of_not_rightsOk (hspan : w.spanOk r = true) (hrights : ¬ w.rightsOk r.opcode = true) :
    w.apply p r = .refuse .protectedAccess := by
  simp [Window.apply, hspan, hrights]

theorem Window.apply_of_ok (hspan : w.spanOk r = true) (hrights : w.rightsOk r.opcode = true) :
    w.apply p r = .toPort p (w.translated + (r.addr - w.base)) := by
  simp [Window.apply, hspan, hrights]

end

/-- A checked window that lets a request through translates without a carry, into its translated range: the offset and
the rest of the span stay below 2^k, and the translated range ends within the 32 bits (R30). -/
theorem Window.apply_in_range {w : Window} {r : Request} (p : PortNo) (hfault : w.fault = none)
    (hlen : 1 ≤ r.length.toNat) (hspan : w.spanOk r = true) (hrights : w.rightsOk r.opcode = true) :
    ∃ a : Word, w.apply p r = .toPort p a
      ∧ a.toNat = w.translated.toNat + (r.addr.toNat - w.base.toNat)
      ∧ w.translated.toNat ≤ a.toNat
      ∧ a.toNat + r.length.toNat ≤ w.translated.toNat + 2 ^ w.exponent.toNat
      ∧ w.translated.toNat + 2 ^ w.exponent.toNat ≤ 2 ^ 32 := by
  obtain ⟨-, -, hrange, -⟩ := Window.fault_eq_none_iff.1 hfault
  obtain ⟨hbase, hend⟩ := (Window.spanOk_iff hlen).1 hspan
  have hpow : 0 < 2 ^ w.exponent.toNat := Nat.two_pow_pos _
  have hoffset : r.addr.toNat - w.base.toNat + r.length.toNat ≤ 2 ^ w.exponent.toNat := by omega
  have hsum := toNat_translate (translated := w.translated) hbase (by omega)
  exact ⟨_, Window.apply_of_ok p hspan hrights, hsum, by omega, by omega, hrange⟩

/-! ### The window that the decode applies (R15, R32, R38) -/

/-- A select that a decode takes as asserted is the only asserted one (R10). -/
theorem Da.assertedSelects_of_route {d : Da} {hits : List TermNo} {r : Request} {sel : Select}
    (h : d.route hits r = .asserted sel) : d.active.assertedSelects hits = [sel] := by
  rw [Da.route] at h
  split at h
  · cases h
  · split at h
    · cases h
    · next hs => cases h; exact hs
    · cases h

/-- An asserted select has a hitting ASSERT term, so it has a lowest one (R11). -/
theorem Image.governing_of_asserted {im : Image} {hits : List TermNo} {sel : Select}
    (h : im.asserted hits sel = true) : ∃ g, im.governing hits sel = some g := by
  obtain ⟨hasserting, -⟩ := Image.asserted_iff.1 h
  exact Option.isSome_iff_exists.1 (List.find?_isSome.2 hasserting)

section
variable {im : Image} {hits : List TermNo} {p : PortNo} {g : TermNo} (r : Request)
  (hg : im.governing hits (.port p) = some g)
include hg

theorem Image.portVerdict_of_window (hw : (im.terms.get g).windowPresent = true) :
    im.portVerdict hits p r = (im.windows.get (im.terms.get g).window.toFin).apply p r := by
  simp [Image.portVerdict, hg, hw]

theorem Image.portVerdict_of_no_window (hw : (im.terms.get g).windowPresent = false) :
    im.portVerdict hits p r = .toPort p r.addr := by
  simp [Image.portVerdict, hg, hw]

end

section
variable {s : State} {r : Request}

theorem State.verdictOf_of_asserted_port {p : PortNo} (h : s.routeOf r = .asserted (.port p)) :
    s.verdictOf r = s.da.active.portVerdict (s.hitsOf r) p r := by
  rw [State.verdictOf, h, Image.verdict]

theorem State.verdictOf_of_default_port {p : PortNo} (h : s.routeOf r = .byDefault (.port p)) :
    s.verdictOf r = .toPort p r.addr := by
  rw [State.verdictOf, h, Image.verdict]

theorem State.governing_of_route {sel : Select} (h : s.routeOf r = .asserted sel) :
    ∃ g, s.da.active.governing (s.hitsOf r) sel = some g := by
  refine Image.governing_of_asserted (Image.mem_assertedSelects.1 ?_)
  rw [Da.assertedSelects_of_route h]
  exact List.mem_singleton_self sel

end

/-- Settles O16: the three branches of an applied window, then the verdict by the route. -/
theorem windowChecksThenTranslates : Obligations.WindowChecksThenTranslates := by
  refine ⟨fun w p r hfault hlen => ?_, fun s r p => ⟨fun g hroute hg => ?_, ?_, fun sel => State.governing_of_route⟩⟩
  · intro k spanIn allowed
    have hspan : w.spanOk r = true ↔ spanIn := Window.spanOk_iff hlen
    have hrights : w.rightsOk r.opcode = true ↔ allowed := by
      rw [Window.rightsOk_iff]
      simp only [allowed]
      cases r.opcode <;> simp
    rw [← hspan, ← hrights]
    exact ⟨Window.apply_of_not_spanOk p, Window.apply_of_not_rightsOk p,
      Window.apply_in_range p hfault hlen⟩
  · rw [State.verdictOf_of_asserted_port hroute]
    exact ⟨Image.portVerdict_of_window r hg, Image.portVerdict_of_no_window r hg⟩
  · exact State.verdictOf_of_default_port

end Sys2Proof.Machine
end

section
/-! PROOF. The shared operations that leave DA whole. -/
namespace Sys2Proof.Machine

section
variable (s : State)

@[simp] theorem State.settle_da : s.settle.da = s.da := s.settle_closes.da
@[simp] theorem State.respond_da (r : Rsp) : (s.respond r).da = s.da := rfl
@[simp] theorem State.answer_da (pair : Pair) (status : Status) : (s.answer pair status).da = s.da := rfl
@[simp] theorem State.answerAll_da (pairs : List Pair) (status : Status) : (s.answerAll pairs status).da = s.da := rfl
@[simp] theorem State.handEvent_da (kind : EventKind) (locus : Locus) (pair : Option Pair) (detail : Word) :
    (s.handEvent kind locus pair detail).da = s.da := rfl
@[simp] theorem State.movePort_da (p : PortNo) (f : Port → Port) : (s.movePort p f).da = s.da := rfl
@[simp] theorem State.freeEntry_da (n : EntryNo) : (s.freeEntry n).da = s.da := rfl
@[simp] theorem State.withdraw_da (p : PortNo) (n : EntryNo) : (s.withdraw p n).da = s.da := rfl
@[simp] theorem State.expireEntry_da (n : EntryNo) : (s.expireEntry n).da = s.da := rfl
@[simp] theorem State.answerHold_da (p : PortNo) (status : Status) : (s.answerHold p status).da = s.da := rfl
@[simp] theorem State.cutPort_da (p : PortNo) (status : Status) : (s.cutPort p status).da = s.da := rfl
@[simp] theorem State.popMu_da : s.popMu.da = s.da := rfl
@[simp] theorem State.record_da (command : BitVec 8) (status : Status) (detail : Word) :
    (s.record command status detail).da = s.da := rfl
@[simp] theorem State.startReset_da (pair : Pair) : (s.startReset pair).da = s.da := rfl
@[simp] theorem State.trafficReset_da : s.trafficReset.da = s.da := rfl
@[simp] theorem State.completeReset_da (pair : Pair) : (s.completeReset pair).da = s.da := rfl
@[simp] theorem State.linkUp_da (identity : BitVec 4) : (s.linkUp identity).da = s.da := rfl

@[simp] theorem State.issuingPass_da : s.issuingPass.da = s.da := by
  obtain ⟨-, hda, -⟩ := s.issuingPass_frame
  exact hda

@[simp] theorem State.finishDrain_da (p : PortNo) : (s.finishDrain p).da = s.da := by
  obtain ⟨-, hda, -⟩ := s.finishDrain_frame p
  exact hda

@[simp] theorem State.takeClaim_da (c : Claimant) : (s.takeClaim c).da = s.da := by
  cases c with
  | port p => simp only [State.takeClaim]; split <;> rfl
  | events => simp only [State.takeClaim]; split <;> rfl

/-! ### A response or a notification from a target, and a link that goes down -/

@[simp] theorem State.takeAnswer_da (p : PortNo) (n : EntryNo) (r : TargetRsp) : (s.takeAnswer p n r).da = s.da := by
  simp [State.takeAnswer]

@[simp] theorem State.takeLate_da (p : PortNo) (n : EntryNo) (r : TargetRsp) : (s.takeLate p n r).da = s.da := by
  simp [State.takeLate]

@[simp] theorem State.takeStray_da (p : PortNo) (tag : BitVec 6) : (s.takeStray p tag).da = s.da := rfl

@[simp] theorem State.matchResponse_da (p : PortNo) (r : TargetRsp) : (s.matchResponse p r).da = s.da := by
  unfold State.matchResponse
  split
  · dsimp only
    split
    · split <;> simp
    · simp
  · simp

@[simp] theorem State.takeFrame_da (p : PortNo) (c : FrameClass) (frame : List Word) :
    (s.takeFrame p c frame).da = s.da := by
  cases c <;> simp [State.takeFrame]

@[simp] theorem State.takeFarFrame_da (p : PortNo) (c : FrameClass) (frame : List Word) :
    (s.takeFarFrame p c frame).da = s.da := by
  unfold State.takeFarFrame
  split <;> simp

@[simp] theorem State.loseLink_da (p : PortNo) : (s.loseLink p).da = s.da := by
  unfold State.loseLink
  split <;> simp

/-! ### The commands of a port, whether carried by the command word or by an enable word -/

@[simp] theorem State.portEnable_da (p : PortNo) : (s.portEnable p).1.da = s.da := by
  unfold State.portEnable
  split <;> rfl

@[simp] theorem State.portDisable_da (p : PortNo) : (s.portDisable p).1.da = s.da := by
  unfold State.portDisable
  split
  any_goals rfl
  dsimp only
  split <;> rfl

@[simp] theorem State.portRestart_da (p : PortNo) : (s.portRestart p).1.da = s.da := by
  unfold State.portRestart
  split <;> simp

@[simp] theorem State.writeEnable_da (p : PortNo) (v : Word) : (s.writeEnable p v).1.da = s.da := by
  unfold State.writeEnable
  split <;> simp

@[simp] theorem State.serveRead_da (r : Request) : (s.serveRead r).da = s.da := by
  unfold State.serveRead
  split_ifs <;> rfl

end

/-- A command taken leaves DA as its action did. -/
@[simp] theorem takeCommand_da (c : Cmd) (r : Request) (body : CmdResult) :
    (takeCommand c r body).da = body.state.da := by
  simp [takeCommand]

end Sys2Proof.Machine
end

section
/-! PROOF. The law of locked banks (R63 to R68): under the lock every command but CLEAR-ALL and a power-on reset leaves both
images, the generation and the lock as they stood. -/
namespace Sys2Proof.Machine

/-- What the lock guards, with the lock itself (R65). -/
def Da.banks (d : Da) : Image × Image × BitVec 16 × Bool := (d.active, d.staging, d.generation, d.lock)

theorem Da.banks_eq_iff {d e : Da} : d.banks = e.banks ↔
    d.active = e.active ∧ d.staging = e.staging ∧ d.generation = e.generation ∧ d.lock = e.lock := by
  simp [Da.banks]

/-! ### Writes to the management window -/

theorem isTableWord_of_isStagingWord {off : Nat} (h : isStagingWord off = true) : isTableWord off = true := by
  simp only [isStagingWord, isTableWord] at *
  simp [h]

theorem State.writeIdentity_banks (s : State) (off : Nat) (v : Word) :
    (s.writeIdentity off v).da.banks = s.da.banks := by
  unfold State.writeIdentity
  split <;> rfl

/-- Of the words of the window only the staging regions reach the banks (R55, R67). -/
theorem State.writeWord_banks (s : State) {off : Nat} (v : Word) (h : isStagingWord off = false) :
    (s.writeWord off v).1.da.banks = s.da.banks := by
  unfold State.writeWord
  split
  · exact s.writeIdentity_banks off v
  split
  · rfl
  split
  · dsimp only
    split
    · simp
    · rfl
  split
  · rfl
  · simp [h]

theorem State.accessWord_banks {r : Request} (acc : State × Status) {i : Nat}
    (h : isStagingWord (r.offset + i) = false) : (State.accessWord r acc i).1.da.banks = acc.1.da.banks :=
  acc.1.writeWord_banks _ h

theorem foldl_accessWord_banks {r : Request} {is : List Nat} (h : ∀ i ∈ is, isStagingWord (r.offset + i) = false)
    (acc : State × Status) : (is.foldl (State.accessWord r) acc).1.da.banks = acc.1.da.banks := by
  induction is generalizing acc with
  | nil => rfl
  | cons i is ih =>
    obtain ⟨hi, his⟩ := List.forall_mem_cons.1 h
    exact (ih his _).trans (State.accessWord_banks acc hi)

/-- An access whose span has no word of a table region leaves the banks. -/
theorem State.access_banks (s : State) {r : Request} (h : r.spansTable = false) :
    (s.access r).1.da.banks = s.da.banks := by
  have hwords : ∀ i ∈ List.range r.length.toNat, isStagingWord (r.offset + i) = false := by
    intro i hi
    by_contra hc
    have htable : isTableWord (r.offset + i) = true := isTableWord_of_isStagingWord (by simpa using hc)
    have hspans : r.spansTable = true := Request.spansTable_iff.2 ⟨i, List.mem_range.1 hi, htable⟩
    simp [h] at hspans
  have hall : (s.accessWords r).1.da.banks = s.da.banks := foldl_accessWord_banks hwords _
  unfold State.access
  dsimp only
  split
  · rw [State.issuingPass_da, hall]
  · exact hall

/-- While the lock is set a served write leaves the banks: one that spans a table region is answered LOCKED (R151). -/
theorem State.serveWrite_banks (s : State) (r : Request) (hlock : s.da.lock = true) :
    (s.serveWrite r).da.banks = s.da.banks := by
  unfold State.serveWrite
  split
  · rfl
  split
  · rfl
  split
  · rfl
  · next htable =>
    rw [State.answer_da]
    exact s.access_banks (by simpa [hlock] using htable)

theorem State.serveWriteIf_banks (s : State) (test : Request → Bool) (hlock : s.da.lock = true) :
    (s.serveWriteIf test).da.banks = s.da.banks := by
  unfold State.serveWriteIf
  split
  · rfl
  split
  · rw [State.settle_da]
    exact s.popMu.serveWrite_banks _ hlock
  · rfl

/-! ### Requests received and decoded -/

theorem State.accept_banks (s : State) (r : Request) : (s.accept r).da.banks = s.da.banks := rfl

theorem State.acceptOrAnswer_banks (s : State) (f : ReqFields) : (s.acceptOrAnswer f).da.banks = s.da.banks := by
  unfold State.acceptOrAnswer
  split
  · rfl
  split
  · rfl
  split
  · rfl
  split
  · rfl
  · exact s.accept_banks _

theorem State.takeUpFrame_banks (s : State) (frame : List Word) : (s.takeUpFrame frame).da.banks = s.da.banks := by
  unfold State.takeUpFrame
  split
  · split
    · exact (s.modUp Up.useCredit).acceptOrAnswer_banks _
    all_goals rfl
  · rfl

theorem State.loseUpstream_banks (s : State) : s.loseUpstream.da.banks = s.da.banks := rfl

theorem State.helloFromController_banks (s : State) (identity : BitVec 4) :
    (s.helloFromController identity).da.banks = s.da.banks := by
  unfold State.helloFromController
  split
  · rw [State.linkUp_da]
  · exact s.loseUpstream_banks

/-- A decode counts hits and loads cells, and leaves the banks. -/
theorem State.withDecode_banks (s : State) (rest : List Request) (r : Request) (x : State) :
    (s.withDecode rest r x).da.banks = s.da.banks := rfl

/-! ### The bank operations and the pin reset under the lock -/

section
variable (s : State) (hlock : s.da.lock = true)
include hlock

theorem State.commitAction_banks (pair : Pair) : (s.commitAction pair).state.da.banks = s.da.banks := by
  rw [State.commitAction, if_pos hlock]

theorem State.stagingCopyAction_banks : s.stagingCopyAction.state.da.banks = s.da.banks := by
  rw [State.stagingCopyAction, if_pos hlock]

theorem State.lockAction_banks : s.lockAction.state.da.banks = s.da.banks := by
  simp [State.lockAction, Da.banks, hlock]

end

/-- The lock keeps both banks over a pin reset, whatever RETAIN says (R68). -/
theorem Da.pinReset_banks {d : Da} (straps : Straps) (hlock : d.lock = true) :
    (d.pinReset straps).banks = d.banks := by
  simp [Da.pinReset, Da.banks, hlock]

/-! ### Commands -/

/-- An outcome of a command on `s` that leaves the banks as they stood. -/
def KeepsBanks (s : State) (o : Host.Outcome State Fault Refusal) : Prop :=
  ∀ t, o = .next t → t.da.banks = s.da.banks

namespace KeepsBanks
variable {s t : State}

theorem next (h : t.da.banks = s.da.banks) : KeepsBanks s (.next t) := by
  rintro _ ⟨⟩
  exact h

theorem same : KeepsBanks s (.next s) := next rfl

theorem branch {c : Prop} [Decidable c] {a b : Host.Outcome State Fault Refusal} (ha : KeepsBanks s a)
    (hb : KeepsBanks s b) : KeepsBanks s (if c then a else b) := by
  split
  · exact ha
  · exact hb

/-- A command that is due under a condition, and leaves the state otherwise (log 2). -/
theorem guarded {c : Prop} [Decidable c] (h : t.da.banks = s.da.banks) :
    KeepsBanks s (if c then .next t else .next s) := branch (next h) same

/-- A command that serves the request at the head of MU's queue, and leaves the state when there is none (log 2). -/
theorem served {k : Request → Host.Outcome State Fault Refusal} (h : ∀ r, KeepsBanks s (k r)) :
    KeepsBanks s (match s.mu.head with | none => .next s | some r => k r) := by
  split
  · exact same
  · exact h _

/-- A command of the command word, taken when the head carries it. -/
theorem command {c : Cmd} {action : Request → CmdResult} (h : ∀ r, (action r).state.da.banks = s.da.banks) :
    KeepsBanks s (match s.mu.head with
      | none => .next s
      | some r => if s.headCarries c r then .next (takeCommand c r (action r)) else .next s) :=
  served fun r => guarded (by rw [takeCommand_da, h])

end KeepsBanks

section
variable (s : State)

theorem execUpstreamLinkLoss_keepsBanks (cause : LossCause) : KeepsBanks s (execUpstreamLinkLoss cause s) := by
  cases cause with
  | down arg check => exact .guarded (by simp [s.loseUpstream_banks])
  | symbolLock => exact .guarded (by simp [s.loseUpstream_banks])
  | hello arg check => exact .guarded (by simp [s.helloFromController_banks])

theorem execReqFrameReceived_keepsBanks (frame : List Word) : KeepsBanks s (execReqFrameReceived frame s) := by
  unfold execReqFrameReceived
  split
  · exact .same
  · exact .next (by simp [s.takeUpFrame_banks])

theorem execUpstreamRspNtfFrame_keepsBanks (frame : List Word) : KeepsBanks s (execUpstreamRspNtfFrame frame s) :=
  execReqFrameReceived_keepsBanks s frame

theorem execDecode_keepsBanks : KeepsBanks s (execDecode s) := by
  cases h : s.da.intake with
  | nil =>
    rw [execDecode, h]
    exact .same
  | cons r rest =>
    rw [execDecode_cons h]
    exact .next (by rw [State.settle_da, State.withDecode_banks])

theorem execDownstreamFrame_keepsBanks (p : PortNo) (frame : List Word) :
    KeepsBanks s (execDownstreamFrame p frame s) := by
  unfold execDownstreamFrame
  split
  · split
    · split
      · exact .next (by simp)
      · exact .next (by simp)
      all_goals exact .next rfl
    · exact .next rfl
  · exact .same

theorem State.helloFromTarget_keepsBanks (p : PortNo) : KeepsBanks s (s.helloFromTarget p) := by
  unfold State.helloFromTarget
  split <;> exact .next (by simp)

theorem execPortHelloReceived_keepsBanks (p : PortNo) (arg : SymArg) (check : SymCheck) :
    KeepsBanks s (execPortHelloReceived p arg check s) := by
  unfold execPortHelloReceived
  split
  · exact s.helloFromTarget_keepsBanks p
  · exact .same

theorem execDownstreamLinkLoss_keepsBanks (p : PortNo) (cause : LossCause) :
    KeepsBanks s (execDownstreamLinkLoss p cause s) := by
  cases cause with
  | down arg check => exact .guarded (by simp)
  | symbolLock => exact .guarded (by simp)
  | hello arg check => exact execPortHelloReceived_keepsBanks s p arg check

theorem execReadyOrWakeReceived_keepsBanks (p : PortNo) (sym : WakeSymbol) (arg : SymArg) (check : SymCheck) :
    KeepsBanks s (execReadyOrWakeReceived p sym arg check s) := by
  unfold execReadyOrWakeReceived
  split
  · split
    · exact .next (by simp)
    · exact .next (by simp)
    all_goals exact .same
  · exact .same

theorem execUnknownCommand_keepsBanks : KeepsBanks s (execUnknownCommand s) := by
  refine .served fun r => ?_
  split
  · exact .same
  split
  · exact .same
  · exact .next (by simp)

theorem execTrafficPhase_keepsBanks : KeepsBanks s (execTrafficPhase s) := by
  unfold execTrafficPhase
  split
  · exact .next (by simp)
  all_goals exact .same

theorem execCapturePhase_keepsBanks : KeepsBanks s (execCapturePhase s) := by
  unfold execCapturePhase
  split
  · exact .next rfl
  all_goals exact .same

theorem execSegmentResetCompletion_keepsBanks : KeepsBanks s (execSegmentResetCompletion s) := by
  unfold execSegmentResetCompletion
  split
  · exact .next (by simp)
  all_goals exact .same

end

/-- Under the lock every command but CLEAR-ALL and a power-on reset leaves the banks (R65). -/
theorem exec_keepsBanks {c : Instr} {s : State} (hlock : s.da.lock = true) (hclear : c ≠ .clearAll)
    (hpor : ∀ straps, c ≠ .por straps) : KeepsBanks s (exec c s) := by
  have hwrite : ∀ test, KeepsBanks s (.next (s.serveWriteIf test)) := fun test => .next (s.serveWriteIf_banks test hlock)
  cases c with
  | por straps => exact absurd rfl (hpor straps)
  | clearAll => exact absurd rfl hclear
  | pinReset straps => exact .next (Da.pinReset_banks straps hlock)
  | tick => exact .next rfl
  -- the upstream link and the egress queue
  | upstreamHelloTimerExpiry => exact .guarded rfl
  | upstreamHello arg check => exact .guarded (by simp [s.helloFromController_banks])
  | upstreamLinkLoss cause => exact execUpstreamLinkLoss_keepsBanks s cause
  | reqFrameReceived frame => exact execReqFrameReceived_keepsBanks s frame
  | upstreamRspNtfFrame frame => exact execUpstreamRspNtfFrame_keepsBanks s frame
  | upstreamGrant arg check => exact .guarded (by simp)
  | upstreamPark arg check => exact .guarded (by simp)
  | upstreamWake arg check => exact .guarded (by simp)
  | egressSend => exact .guarded (by simp)
  | notificationClaim p => exact .guarded (by simp)
  | eventClaim => exact .guarded (by simp)
  | decode => exact execDecode_keepsBanks s
  -- the ports and the transaction table
  | downstreamFrame p frame => exact execDownstreamFrame_keepsBanks s p frame
  | downstreamGrantReq p arg check => exact .guarded (by simp)
  | portSend p => exact .next rfl
  | entryTimeout n => exact .guarded (by simp)
  | quarantineEnd n => exact .guarded (by simp)
  | portHelloTimerExpiry p => exact .guarded rfl
  | portHelloReceived p arg check => exact execPortHelloReceived_keepsBanks s p arg check
  | linkTimerExpiry p => exact .guarded (by simp)
  | downstreamLinkLoss p cause => exact execDownstreamLinkLoss_keepsBanks s p cause
  | idleTimerExpiry p => exact .guarded (by simp)
  | readyOrWakeReceived p sym arg check => exact execReadyOrWakeReceived_keepsBanks s p sym arg check
  | wakeTimerExpiry p => exact .guarded (by simp)
  -- the accesses of MU
  | managementRead => exact .served fun r => .guarded (by simp)
  | managementWrite => exact hwrite _
  | stagingWrite => exact hwrite _
  | portConfigurationWrite => exact hwrite _
  | eventOverflowClear => exact hwrite _
  -- the commands of the command word
  | commit => exact .command fun r => s.popMu.commitAction_banks hlock r.pair
  | stagingCopy => exact .command fun _ => s.popMu.stagingCopyAction_banks hlock
  | lock => exact .command fun _ => s.popMu.lockAction_banks hlock
  | portEnable => exact .served fun r => .branch (.next (by simp [portResult])) (hwrite _)
  | portDisable => exact .served fun r => .branch (.next (by simp [portResult])) (hwrite _)
  | portRestart => exact .command fun _ => by simp [portResult]
  | captureClear => exact .command fun _ => rfl
  | counterClear => exact .command fun _ => rfl
  | unknownCommand => exact execUnknownCommand_keepsBanks s
  | segmentReset => exact .served fun r => .guarded (by simp)
  | trafficPhase => exact execTrafficPhase_keepsBanks s
  | capturePhase => exact execCapturePhase_keepsBanks s
  | segmentResetCompletion => exact execSegmentResetCompletion_keepsBanks s

/-! ### What ends the lock -/

theorem State.clearAllAction_lock (s : State) (pair : Pair) : (s.clearAllAction pair).state.da.lock = false := rfl

/-- A CLEAR-ALL that is not carried leaves the state; one that is clears the lock (R66). -/
theorem execClearAll_same_or_unlocked {s t : State} (h : execClearAll s = .next t) : t = s ∨ t.da.lock = false := by
  unfold execClearAll at h
  split at h
  · cases h
    exact .inl rfl
  split at h
  · cases h
    exact .inr (by rw [takeCommand_da, State.clearAllAction_lock])
  · cases h
    exact .inl rfl

theorem execClearAll_unlocks {s : State} {r : Request} {rest : List Request} (hidle : s.mu.cmd = .idle)
    (hqueue : s.mu.queue = r :: rest) (hcode : r.commandCode = some 0x04#32) :
    ∃ t, execClearAll s = .next t ∧ t.da.lock = false := by
  have hcarries : s.headCarries .clearAll r = true := State.headCarries_of hcode rfl
  refine ⟨takeCommand .clearAll r (s.popMu.clearAllAction r.pair), ?_, ?_⟩
  · simp [execClearAll, Mu.head_cons hidle hqueue, hcarries]
  · rw [takeCommand_da, State.clearAllAction_lock]

/-- Settles O54: CLEAR-ALL and the power-on reset by what they do, every other command by the banks it keeps. -/
theorem lockedBanksStand : Obligations.LockedBanksStand := by
  refine ⟨fun c s t hlock h => ?_, fun s r rest => execClearAll_unlocks, fun s straps => ⟨_, rfl, rfl⟩⟩
  have hstand : t.da.banks = s.da.banks → t.da.active = s.da.active ∧ t.da.staging = s.da.staging
      ∧ t.da.generation = s.da.generation ∧ t.da.lock = true := fun hbanks => hlock ▸ Da.banks_eq_iff.1 hbanks
  by_cases hclear : c = .clearAll
  · subst hclear
    rcases execClearAll_same_or_unlocked h with rfl | hunlocked
    · exact .inl (hstand rfl)
    · exact .inr ⟨.inl rfl, hunlocked⟩
  by_cases hpor : ∃ straps, c = .por straps
  · obtain ⟨straps, rfl⟩ := hpor
    cases h
    exact .inr ⟨.inr ⟨straps, rfl⟩, rfl⟩
  · exact .inl (hstand (exec_keepsBanks hlock hclear (not_exists.1 hpor) t h))

end Sys2Proof.Machine
end

section
/-! PROOF. Validation (R30, R58): what a failing check of a term and of a window is, and which item a commit names. -/
namespace Sys2Proof.Machine

/-! ### Ladders of checks -/

/-- `why` is the reason of the first check that fires: it fires, and none before it does. -/
def FirstFiring {α : Type} (checks : List (Prop × α)) (why : α) : Prop :=
  ∃ before after cond, checks = before ++ (cond, why) :: after ∧ cond ∧ ∀ x ∈ before, ¬ x.1

theorem not_firstFiring_nil {α : Type} (why : α) : ¬ FirstFiring [] why := by
  rintro ⟨before, after, cond, h, -⟩
  simp at h

theorem firstFiring_cons {α : Type} {c : Prop} {w why : α} {checks : List (Prop × α)} :
    FirstFiring ((c, w) :: checks) why ↔ (c ∧ w = why) ∨ (¬ c ∧ FirstFiring checks why) := by
  constructor
  · rintro ⟨before, after, cond, heq, hcond, hbefore⟩
    cases before with
    | nil =>
      cases heq
      exact .inl ⟨hcond, rfl⟩
    | cons x before =>
      obtain ⟨rfl, rfl⟩ := List.cons.inj heq
      exact .inr ⟨hbefore _ List.mem_cons_self, before, after, cond, rfl, hcond,
        fun y hy => hbefore y (List.mem_cons_of_mem _ hy)⟩
  · rintro (⟨hc, rfl⟩ | ⟨hc, before, after, cond, rfl, hcond, hbefore⟩)
    · exact ⟨[], checks, c, rfl, hc, by simp⟩
    · exact ⟨(c, w) :: before, after, cond, rfl, hcond, List.forall_mem_cons.2 ⟨hc, hbefore⟩⟩

/-- A ladder of checks that has run out names nothing. -/
theorem none_eq_some_iff_firstFiring {α : Type} (why : α) : none = some why ↔ FirstFiring [] why :=
  ⟨nofun, fun h => absurd h (not_firstFiring_nil why)⟩

/-- One rung of a ladder: it names the first check of the list that fires when its condition says the first check and
the rest of the ladder the rest of the list. -/
theorem ite_eq_some_iff_firstFiring {α : Type} {c c' : Prop} [Decidable c] {w why : α} {rest : Option α}
    {checks : List (Prop × α)} (hc : c ↔ c') (hrest : rest = some why ↔ FirstFiring checks why) :
    (if c then some w else rest) = some why ↔ FirstFiring ((c', w) :: checks) why := by
  rw [firstFiring_cons, ← hc, ← hrest]
  by_cases h : c <;> simp [h]

/-! ### The checks of a term and of a window -/

theorem selectDefined_iff {code : BitVec 3} : selectDefined code = true ↔ code.toNat ≤ 5 := by
  revert code
  decide

/-- Two sets of bits meet when some bit is in both. -/
theorem and_ne_zero_iff {w : Nat} {x y : BitVec w} :
    x &&& y ≠ 0#w ↔ ∃ c : Nat, x.getLsbD c = true ∧ y.getLsbD c = true := by
  rw [ne_eq, and_eq_zero_iff]
  constructor
  · intro h
    push Not at h
    obtain ⟨c, hx, hy⟩ := h
    exact ⟨c, hx, by simpa using hy⟩
  · rintro ⟨c, hx, hy⟩ h
    have := h ⟨c, BitVec.lt_of_getLsbD hx⟩ hx
    simp [hy] at this

/-- The checks of R58 on a term, in their order, each with its reason. -/
def Image.termChecks (im : Image) (t : Term) : List (Prop × Reason) :=
  [(¬ t.select.toNat ≤ 5, .select), (t.opcodes = 0#3, .opcodes),
   (t.windowPresent = true ∧ (im.windows.get t.window.toFin).valid = false, .windowInvalid),
   (t.windowPresent = true ∧ (t.polarity = .inhibit ∨ 4 ≤ t.select.toNat), .windowNotAllowed),
   ((∃ c : Nat, t.needFull.getLsbD c = true ∧ t.needEmpty.getLsbD c = true), .cellBoth)]

/-- The properties of R30, in their order, each as what breaks it. -/
def Window.checks (w : Window) : List (Prop × Reason) :=
  [(w.exponent.toNat < 4 ∨ 28 < w.exponent.toNat, .size),
   (w.base.toNat % 2 ^ w.exponent.toNat ≠ 0, .align),
   (2 ^ 32 < w.translated.toNat + 2 ^ w.exponent.toNat, .range),
   (w.readAllowed = false ∧ w.writeAllowed = false, .rights)]

theorem Image.termFault_eq_some_iff {im : Image} {t : Term} {why : Reason} :
    im.termFault t = some why ↔ FirstFiring (im.termChecks t) why := by
  have hselect : (!selectDefined t.select) = true ↔ ¬ t.select.toNat ≤ 5 := by
    rw [← selectDefined_iff, Bool.not_eq_true', Bool.not_eq_true]
  have hallowed : (t.windowPresent && !(t.polarity = .assert && selectIsPort t.select)) = true ↔
      t.windowPresent = true ∧ (t.polarity = .inhibit ∨ 4 ≤ t.select.toNat) := by
    cases t.polarity <;> simp [selectIsPort]
  exact ite_eq_some_iff_firstFiring hselect <| ite_eq_some_iff_firstFiring .rfl <|
    ite_eq_some_iff_firstFiring (by simp) <| ite_eq_some_iff_firstFiring hallowed <|
    ite_eq_some_iff_firstFiring and_ne_zero_iff <| none_eq_some_iff_firstFiring why

theorem Window.fault_eq_some_iff {w : Window} {why : Reason} :
    w.fault = some why ↔ FirstFiring w.checks why :=
  ite_eq_some_iff_firstFiring (by simp) <| ite_eq_some_iff_firstFiring .rfl <|
    ite_eq_some_iff_firstFiring .rfl <| ite_eq_some_iff_firstFiring (by simp) <| none_eq_some_iff_firstFiring why

/-! ### The failing items, in their order -/

/-- Term `n` is valid and `why` is the first check of R58 it fails. -/
def Image.BadTerm (im : Image) (n : TermNo) (why : Reason) : Prop :=
  (im.terms.get n).valid = true ∧ FirstFiring (im.termChecks (im.terms.get n)) why

/-- Window `n` is valid and `why` is the first property of R30 it breaks. -/
def Image.BrokenWindow (im : Image) (n : WindowNo) (why : Reason) : Prop :=
  (im.windows.get n).valid = true ∧ FirstFiring (im.windows.get n).checks why

theorem Image.termFailure_eq_some_iff {im : Image} {n : TermNo} {f : Failure} :
    im.termFailure n = some f ↔ ∃ why, im.BadTerm n why ∧ .term n why = f := by
  simp [Image.termFailure, Image.BadTerm, Image.termFault_eq_some_iff, and_assoc]

theorem Image.windowFailure_eq_some_iff {im : Image} {n : WindowNo} {f : Failure} :
    im.windowFailure n = some f ↔ ∃ why, im.BrokenWindow n why ∧ .window n why = f := by
  simp [Image.windowFailure, Image.BrokenWindow, Window.fault_eq_some_iff, and_assoc]

theorem Image.termFailure_eq_none_iff {im : Image} {n : TermNo} :
    im.termFailure n = none ↔ ∀ why, ¬ im.BadTerm n why := by
  simp [Option.eq_none_iff_forall_ne_some, Image.termFailure_eq_some_iff]

theorem Image.windowFailure_eq_none_iff {im : Image} {n : WindowNo} :
    im.windowFailure n = none ↔ ∀ why, ¬ im.BrokenWindow n why := by
  simp [Option.eq_none_iff_forall_ne_some, Image.windowFailure_eq_some_iff]

/-- A search over ordered indices finds what the lowest index that has something has. -/
theorem findSome?_finRange {k : Nat} {α : Type} {f : Fin k → Option α} {a : α} :
    (List.finRange k).findSome? f = some a ↔ ∃ n, f n = some a ∧ ∀ m, m < n → f m = none := by
  have hfound : (List.finRange k).findSome? f = some a
      ↔ ∃ n, f n = some a ∧ (List.finRange k).find? (fun m => (f m).isSome) = some n := by
    rw [List.findSome?_eq_some_iff]
    simp only [List.find?_eq_some_iff_append]
    constructor
    · rintro ⟨before, n, after, heq, hn, hbefore⟩
      exact ⟨n, hn, by simp [hn], before, after, heq, fun m hm => by simp [hbefore m hm]⟩
    · rintro ⟨n, hn, -, before, after, heq, hbefore⟩
      exact ⟨before, n, after, heq, hn, fun m hm => by simpa using hbefore m hm⟩
  simp only [hfound, find?_finRange]
  exact exists_congr fun n => and_congr_right fun hn => by simp [hn]

theorem Image.firstTerm_eq_some_iff {im : Image} {f : Failure} :
    (List.finRange 64).findSome? im.termFailure = some f ↔
      ∃ n why, .term n why = f ∧ im.BadTerm n why ∧ ∀ m, m < n → ∀ y, ¬ im.BadTerm m y := by
  rw [findSome?_finRange]
  refine exists_congr fun n => ?_
  rw [Image.termFailure_eq_some_iff, ← exists_and_right]
  exact exists_congr fun why => by simp only [Image.termFailure_eq_none_iff, and_assoc, and_left_comm]

theorem Image.firstWindow_eq_some_iff {im : Image} {f : Failure} :
    (List.finRange 16).findSome? im.windowFailure = some f ↔
      ∃ n why, .window n why = f ∧ im.BrokenWindow n why ∧ ∀ m, m < n → ∀ y, ¬ im.BrokenWindow m y := by
  rw [findSome?_finRange]
  refine exists_congr fun n => ?_
  rw [Image.windowFailure_eq_some_iff, ← exists_and_right]
  exact exists_congr fun why => by simp only [Image.windowFailure_eq_none_iff, and_assoc, and_left_comm]

theorem Image.firstTerm_eq_none_iff {im : Image} :
    (List.finRange 64).findSome? im.termFailure = none ↔ ∀ m why, ¬ im.BadTerm m why := by
  simp [Image.termFailure_eq_none_iff]

theorem Image.firstWindow_eq_none_iff {im : Image} :
    (List.finRange 16).findSome? im.windowFailure = none ↔ ∀ m why, ¬ im.BrokenWindow m why := by
  simp [Image.windowFailure_eq_none_iff]

/-! ### Validation -/

/-- A header that fails ends validation; after one that passes the terms are searched, then the windows. -/
theorem Image.failure_eq (im : Image) : im.failure =
    if im.defaultSelect.toNat ≤ 5 then
      ((List.finRange 64).findSome? im.termFailure).or ((List.finRange 16).findSome? im.windowFailure)
    else some (.header .defaultSelect) := by
  rw [Image.failure]
  by_cases h : im.defaultSelect.toNat ≤ 5
  · rw [if_pos h, if_neg (by simp [selectDefined_iff.2 h])]
    cases (List.finRange 64).findSome? im.termFailure <;> rfl
  · rw [if_neg h, if_pos (by simpa using mt selectDefined_iff.1 h)]

theorem Image.failure_of_header {im : Image} (h : ¬ im.defaultSelect.toNat ≤ 5) :
    im.failure = some (.header .defaultSelect) := by
  rw [im.failure_eq, if_neg h]

theorem Image.failure_eq_term_iff {im : Image} {n : TermNo} {why : Reason} : im.failure = some (.term n why) ↔
    im.defaultSelect.toNat ≤ 5 ∧ im.BadTerm n why ∧ ∀ m, m < n → ∀ y, ¬ im.BadTerm m y := by
  rw [im.failure_eq]
  by_cases h : im.defaultSelect.toNat ≤ 5 <;>
    simp [h, Option.or_eq_some_iff, Image.firstTerm_eq_some_iff, Image.firstWindow_eq_some_iff]

theorem Image.failure_eq_window_iff {im : Image} {n : WindowNo} {why : Reason} : im.failure = some (.window n why) ↔
    im.defaultSelect.toNat ≤ 5 ∧ (∀ m y, ¬ im.BadTerm m y) ∧ im.BrokenWindow n why
      ∧ ∀ m, m < n → ∀ y, ¬ im.BrokenWindow m y := by
  rw [im.failure_eq]
  by_cases h : im.defaultSelect.toNat ≤ 5
  · rw [if_pos h, Option.or_eq_some_iff, Image.firstTerm_eq_none_iff, Image.firstTerm_eq_some_iff,
      Image.firstWindow_eq_some_iff]
    simp [h]
  · simp [h]

theorem Image.failure_eq_none_iff {im : Image} : im.failure = none ↔
    im.defaultSelect.toNat ≤ 5 ∧ (∀ m y, ¬ im.BadTerm m y) ∧ ∀ m y, ¬ im.BrokenWindow m y := by
  rw [im.failure_eq]
  by_cases h : im.defaultSelect.toNat ≤ 5
  · rw [if_pos h, Option.or_eq_none_iff, Image.firstTerm_eq_none_iff, Image.firstWindow_eq_none_iff]
    simp only [h, true_and]
  · simp [h]

/-- Settles O46: the header, then the first bad term, then the first broken window. -/
theorem validationNamesFirstFailure : Obligations.ValidationNamesFirstFailure := by
  intro im named bad broken
  exact ⟨Image.failure_of_header, fun _ _ => Image.failure_eq_term_iff, fun _ _ => Image.failure_eq_window_iff,
    Image.failure_eq_none_iff⟩

end Sys2Proof.Machine
end

section
/-! PROOF. What is forwarded upstream for a target's response (R80). -/
namespace Sys2Proof.Machine

section
variable {e : Entry} {r : TargetRsp}

theorem forwarded_of_undefined (h : r.status = none) : forwarded e r = plainRsp e.pair .targetError := by
  rw [forwarded, h]

theorem forwarded_read_of_length (h : r.status = some .ok) (hop : e.opcode = .read)
    (hlen : r.payload.length = e.length.toNat) :
    forwarded e r = { pair := e.pair, status := .ok, length := e.length, payload := r.payload } := by
  simp [forwarded, h, hop, hlen]

theorem forwarded_read_of_other_length (h : r.status = some .ok) (hop : e.opcode = .read)
    (hlen : r.payload.length ≠ e.length.toNat) : forwarded e r = plainRsp e.pair .targetError := by
  simp [forwarded, h, hop, hlen]

theorem forwarded_of_not_read (h : r.status = some .ok) (hop : e.opcode ≠ .read) :
    forwarded e r = plainRsp e.pair .ok := by
  rw [forwarded, h]
  cases hcode : e.opcode with
  | read => exact absurd hcode hop
  | write => rfl
  | modify => rfl

theorem forwarded_of_not_ok {st : Status} (h : r.status = some st) (hst : st ≠ .ok) :
    forwarded e r = plainRsp e.pair st := by
  rw [forwarded, h]
  cases st with
  | ok => exact absurd rfl hst
  | _ => rfl

theorem forwarded_pair (e : Entry) (r : TargetRsp) : (forwarded e r).pair = e.pair := by
  unfold forwarded
  split
  · rfl
  · split
    · split <;> rfl
    all_goals rfl
  · rfl

end

/-- Settles O25, one row of R80 after another. -/
theorem forwardedResponseByStatus : Obligations.ForwardedResponseByStatus := fun e r =>
  ⟨forwarded_pair e r, forwarded_read_of_length, forwarded_read_of_other_length, forwarded_of_not_read,
    fun _ => forwarded_of_not_ok, forwarded_of_undefined⟩

end Sys2Proof.Machine
end

section
/-! PROOF. The law of entries only on live ports (R90), one rule per shared operation: an operation that touches neither
the entries nor the ports keeps it, one that moves a port out of ACTIVE and DRAINING finds or leaves its count at 0, and
a request is issued to an ACTIVE port alone. -/
namespace Sys2Proof.Machine

/-- The states in which a port may have OPEN and EXPIRED entries (R90). -/
def PortState.carriesEntries : PortState → Bool
  | .active | .draining => true
  | .disabled | .linking | .parked | .waking | .faulted => false

theorem PortState.carriesEntries_iff {st : PortState} :
    st.carriesEntries = true ↔ st = .active ∨ st = .draining := by
  cases st <;> simp [PortState.carriesEntries]

/-- The law of entries only on live ports, with the states of a live port under one name. -/
def State.EntriesLive (s : State) : Prop :=
  ∀ n : EntryNo, (s.entry n).state ≠ .free → (s.port (s.entry n).port).state.carriesEntries = true

theorem State.entriesLive_iff {s : State} : s.EntriesLive ↔ s.EntriesOnLivePorts := by
  simp only [State.EntriesLive, PortState.carriesEntries_iff]

/-! ### States of ports that their own operations keep -/

theorem Port.sendHead_state (q : Port) : q.sendHead.state = q.state := by
  unfold Port.sendHead
  split
  · rfl
  · split <;> rfl

theorem Port.sendMany_state (n : Nat) (q : Port) : (Port.sendMany n q).state = q.state := by
  induction n generalizing q with
  | zero => rfl
  | succ n ih =>
    rw [Port.sendMany]
    split
    · rw [ih, q.sendHead_state]
    · rfl

theorem Port.takeNotification_state (q : Port) (n : Option Ntf) : (q.takeNotification n).state = q.state := by
  unfold Port.takeNotification
  dsimp only
  split
  · rfl
  split
  · rfl
  split
  · rfl
  split <;> rfl

theorem Port.writeConfig_state (q : Port) (k : Nat) (v : Word) : (q.writeConfig k v).state = q.state := by
  unfold Port.writeConfig
  split <;> rfl

theorem Entry.tick_state (e : Entry) : e.tick.state = e.state := by
  unfold Entry.tick
  split <;> rfl

theorem Entry.tick_port (e : Entry) : e.tick.port = e.port := by
  unfold Entry.tick
  split <;> rfl

/-! ### A port cut -/

theorem State.cutPort_entry (s : State) (p : PortNo) (status : Status) (n : EntryNo) :
    (s.cutPort p status).entry n =
      if (s.entry n).state ≠ .free ∧ (s.entry n).port = p then Entry.blank else s.entry n := by
  rw [State.cutPort_eq]
  exact Table.get_map ..

/-- A port that is cut has no entry left (R87, R89). -/
theorem State.cutPort_count (s : State) (p : PortNo) (status : Status) : (s.cutPort p status).tt.count p = 0 := by
  refine Tt.count_eq_zero.2 fun n hn => ?_
  change ((s.cutPort p status).entry n).state ≠ .free at hn
  change ((s.cutPort p status).entry n).port ≠ p
  rw [State.cutPort_entry] at hn ⊢
  split at hn
  · exact absurd rfl hn
  · next hkept =>
    rw [if_neg hkept]
    exact fun heq => hkept ⟨hn, heq⟩

theorem State.cutPort_port_state (s : State) (p : PortNo) (status : Status) (q : PortNo) :
    ((s.cutPort p status).port q).state = (s.port q).state := by
  rw [State.cutPort, State.modPort_port]
  split <;> rfl

/-! ### The rules -/

/-- With every entry FREE the law says nothing. -/
theorem State.entriesLive_of_powerOn {s : State} (h : s.tt = Tt.powerOn) : s.EntriesLive := by
  intro n hn
  simp [State.entry, h, Tt.powerOn, Entry.blank] at hn

namespace State.EntriesLive
variable {s t : State}

/-- Entries that are freed or kept for their port, under ports that keep their states. -/
theorem mono (h : s.EntriesLive)
    (hentry : ∀ n, (t.entry n).state ≠ .free → (s.entry n).state ≠ .free ∧ (t.entry n).port = (s.entry n).port)
    (hport : ∀ p, (t.port p).state = (s.port p).state) : t.EntriesLive := by
  intro n hn
  obtain ⟨hs, heq⟩ := hentry n hn
  rw [hport, heq]
  exact h n hs

theorem of_same_entries (h : s.EntriesLive) (hentries : t.tt.entries = s.tt.entries)
    (hport : ∀ p, (t.port p).state = (s.port p).state) : t.EntriesLive :=
  h.mono (fun n hn => by simpa [State.entry, hentries] using hn) hport

section
variable (h : s.EntriesLive)
include h

/-! What reaches neither the entries nor the ports. -/

theorem modUp (f : Up → Up) : (s.modUp f).EntriesLive := h
theorem modDa (f : Da → Da) : (s.modDa f).EntriesLive := h
theorem modMu (f : Mu → Mu) : (s.modMu f).EntriesLive := h
theorem modEv (f : Events → Events) : (s.modEv f).EntriesLive := h
theorem modTb (f : Timebase → Timebase) : (s.modTb f).EntriesLive := h
theorem respond (r : Rsp) : (s.respond r).EntriesLive := h
theorem answer (pair : Pair) (status : Status) : (s.answer pair status).EntriesLive := h
theorem answerAll (pairs : List Pair) (status : Status) : (s.answerAll pairs status).EntriesLive := h
theorem answerHold (p : PortNo) (status : Status) : (s.answerHold p status).EntriesLive := h
theorem joinHold (p : PortNo) (r : Request) : (s.joinHold p r).EntriesLive := h
theorem handEvent (kind : EventKind) (locus : Locus) (pair : Option Pair) (detail : Word) :
    (s.handEvent kind locus pair detail).EntriesLive := h
theorem popMu : s.popMu.EntriesLive := h
theorem record (command : BitVec 8) (status : Status) (detail : Word) :
    (s.record command status detail).EntriesLive := h

/-! What changes a port. -/

/-- The count of a port that is neither ACTIVE nor DRAINING is 0. -/
theorem count_eq_zero {p : PortNo} (hp : (s.port p).state.carriesEntries = false) : s.tt.count p = 0 := by
  refine Tt.count_eq_zero.2 fun n hn heq => ?_
  have hcarries : (s.port (s.entry n).port).state.carriesEntries = true := h n hn
  have hport : (s.entry n).port = p := heq
  rw [hport, hp] at hcarries
  cases hcarries

/-- A port with entries may move to ACTIVE and DRAINING alone. -/
theorem modPort {p : PortNo} {f : Port → Port}
    (hf : s.tt.count p ≠ 0 → (f (s.port p)).state.carriesEntries = true) : (s.modPort p f).EntriesLive := by
  intro n hn
  rw [State.modPort_entry] at hn ⊢
  rw [State.modPort_port]
  split
  · next heq =>
    rw [← heq]
    exact hf fun hcount => Tt.count_eq_zero.1 hcount n hn heq.symm
  · exact h n hn

theorem modPort_same {p : PortNo} {f : Port → Port} (hf : ∀ q, (f q).state = q.state) :
    (s.modPort p f).EntriesLive := by
  refine h.modPort fun hcount => ?_
  rw [hf]
  exact Bool.of_not_eq_false (mt h.count_eq_zero hcount)

/-- A port that is neither ACTIVE nor DRAINING may move to any state. -/
theorem modPort_idle {p : PortNo} {f : Port → Port} (hp : (s.port p).state.carriesEntries = false) :
    (s.modPort p f).EntriesLive :=
  h.modPort fun hcount => absurd (h.count_eq_zero hp) hcount

/-- A change of state with its record. -/
theorem movePort {p : PortNo} {f : Port → Port}
    (hf : s.tt.count p ≠ 0 → (f (s.port p)).state.carriesEntries = true) : (s.movePort p f).EntriesLive :=
  h.modPort hf

theorem movePort_idle {p : PortNo} {f : Port → Port} (hp : (s.port p).state.carriesEntries = false) :
    (s.movePort p f).EntriesLive :=
  h.movePort fun hcount => absurd (h.count_eq_zero hp) hcount

theorem movePort_active (p : PortNo) : (s.movePort p Port.enterActive).EntriesLive := h.movePort fun _ => rfl

theorem modPorts_same {f : Port → Port} (hf : ∀ q, (f q).state = q.state) : (s.modPorts f).EntriesLive :=
  h.of_same_entries rfl fun p => by rw [State.modPorts_port, hf]

theorem withdraw (p : PortNo) (n : EntryNo) : (s.withdraw p n).EntriesLive := h.modPort_same fun _ => rfl

/-- A drain ends where the count is 0 (R108). -/
theorem finishDrain (p : PortNo) : (s.finishDrain p).EntriesLive := by
  unfold State.finishDrain
  split
  · next hdone => exact h.movePort fun hcount => absurd hdone.2 hcount
  · exact h

/-! What changes the entries. -/

theorem freeEntry (n : EntryNo) : (s.freeEntry n).EntriesLive := by
  refine h.mono (fun m hm => ?_) fun _ => rfl
  have hget : (s.freeEntry n).entry m = if n = m then Entry.blank else s.entry m := Table.get_set ..
  rw [hget] at hm ⊢
  split at hm
  · exact absurd rfl hm
  · next hne =>
    rw [if_neg hne]
    exact ⟨hm, rfl⟩

/-- An entry keeps its port when it becomes EXPIRED. -/
theorem expireEntry {n : EntryNo} (hn : (s.entry n).state ≠ .free) : (s.expireEntry n).EntriesLive := by
  refine h.mono (fun m hm => ?_) fun _ => rfl
  have hget : (s.expireEntry n).entry m = if n = m then
      { s.entry m with state := .expired, timer := (s.port (s.entry m).port).timeoutTicks } else s.entry m :=
    Table.get_modify ..
  rw [hget] at hm ⊢
  split at hm
  · next heq =>
    rw [if_pos heq]
    exact ⟨heq ▸ hn, rfl⟩
  · next hne =>
    rw [if_neg hne]
    exact ⟨hm, rfl⟩

/-- The new entry is on the ACTIVE port it is issued to (R71, R77). -/
theorem issueInto (n : EntryNo) {p : PortNo} (r : Request) (hp : (s.port p).state = .active) :
    (s.issueInto n p r).EntriesLive := by
  refine modPort_same (s := s.modTt fun t => { t with entries := t.entries.set n (s.issuedEntry p r) })
    (fun m hm => ?_) fun _ => rfl
  have hget : (s.modTt fun t => { t with entries := t.entries.set n (s.issuedEntry p r) }).entry m
      = if n = m then s.issuedEntry p r else s.entry m := Table.get_set ..
  rw [hget] at hm ⊢
  rw [State.modTt_port]
  split at hm
  · next heq =>
    rw [if_pos heq, State.issuedEntry, hp]
    rfl
  · next hne =>
    rw [if_neg hne]
    exact h m hm

theorem issued {n : EntryNo} {p : PortNo} (r : Request) (rest : List Request) (hp : (s.port p).state = .active) :
    (s.issued n p r rest).EntriesLive :=
  h.issueInto n r hp

theorem issuingPass : s.issuingPass.EntriesLive :=
  State.passRounds_induction h fun _ _ _ r rest ht heligible _ _ =>
    ht.issued r rest (State.eligible_iff.1 heligible).1

theorem cutPort (p : PortNo) (status : Status) : (s.cutPort p status).EntriesLive := by
  refine h.mono (fun n hn => ?_) (s.cutPort_port_state p status)
  rw [State.cutPort_entry] at hn ⊢
  split at hn
  · exact absurd rfl hn
  · next hkept =>
    rw [if_neg hkept]
    exact ⟨hn, rfl⟩

/-- A port that is cut may move to any state. -/
theorem cutPort_modPort (p : PortNo) (status : Status) (f : Port → Port) :
    ((s.cutPort p status).modPort p f).EntriesLive :=
  (h.cutPort p status).modPort fun hcount => absurd (s.cutPort_count p status) hcount

theorem cutPort_movePort (p : PortNo) (status : Status) (f : Port → Port) :
    ((s.cutPort p status).movePort p f).EntriesLive :=
  (h.cutPort p status).movePort fun hcount => absurd (s.cutPort_count p status) hcount

/-! The claims and the end of a happening. -/

theorem takeClaim (c : Claimant) : (s.takeClaim c).EntriesLive := by
  cases c with
  | port p =>
    simp only [State.takeClaim]
    split
    · exact h
    · exact (h.modUp _).modPort_same fun _ => rfl
  | events =>
    simp only [State.takeClaim]
    split <;> exact h

theorem settle : s.settle.EntriesLive :=
  h.of_same_entries (congrArg Tt.entries s.settle_closes.tt) fun p => by rw [s.settle_closes.port p]

/-! ### The transaction table and the ports -/

theorem holdOrBusy (p : PortNo) (r : Request) : (s.holdOrBusy p r).EntriesLive := by
  unfold State.holdOrBusy
  split
  · exact h.joinHold p r
  · exact h.answer _ _

/-- Of the states of a port, PARKED is left, with its count at 0, and ACTIVE is issued to (R74). -/
theorem takeDecoded (p : PortNo) (r : Request) : (s.takeDecoded p r).EntriesLive := by
  unfold State.takeDecoded
  split
  iterate 4 exact h.answer _ _
  · next hparked => exact (h.joinHold p r).modPort_idle (by rw [State.joinHold, State.modTt_port, hparked]; rfl)
  · exact h.holdOrBusy p r
  · next hactive =>
    split
    · split
      · exact h.issueInto _ r hactive
      · exact h.holdOrBusy p r
    · exact h.holdOrBusy p r

theorem takeMgmt (r : Request) : (s.takeMgmt r).EntriesLive := by
  unfold State.takeMgmt
  split
  · exact (h.answer _ _).modMu _
  split
  · exact h.modMu _
  · exact h.answer _ _

theorem handOff (r : Request) (v : Verdict) : (s.handOff r v).EntriesLive := by
  cases v with
  | toPort p addr => exact h.takeDecoded p _
  | toMgmt => exact h.takeMgmt r
  | refuse status => exact h.answer _ _

theorem takeAnswer (p : PortNo) (n : EntryNo) (r : TargetRsp) : (s.takeAnswer p n r).EntriesLive :=
  ((((h.respond _).freeEntry n).withdraw p n).issuingPass).finishDrain p

theorem takeLate (p : PortNo) (n : EntryNo) (r : TargetRsp) : (s.takeLate p n r).EntriesLive :=
  have hcounted := (h.freeEntry n).modPort_same (p := p) (f := fun q => { q with late := satInc q.late }) fun _ => rfl
  (hcounted.handEvent _ _ _ _).issuingPass.finishDrain p

theorem takeStray (p : PortNo) (tag : BitVec 6) : (s.takeStray p tag).EntriesLive :=
  have hcounted := h.modPort_same (p := p) (f := fun q => { q with stray := satInc q.stray }) fun _ => rfl
  hcounted.handEvent _ _ _ _

theorem matchResponse (p : PortNo) (r : TargetRsp) : (s.matchResponse p r).EntriesLive := by
  unfold State.matchResponse
  split
  · dsimp only
    split
    · split
      · exact h.takeAnswer p _ r
      · exact h.takeLate p _ r
      · exact h.takeStray p r.tag
    · exact h.takeStray p r.tag
  · exact h.takeStray p r.tag

theorem takeFrame (p : PortNo) (c : FrameClass) (frame : List Word) : (s.takeFrame p c frame).EntriesLive := by
  cases c with
  | rsp => exact h.matchResponse p _
  | ntf => exact h.modPort_same fun q => q.takeNotification_state _
  | req => exact h

theorem takeFarFrame (p : PortNo) (c : FrameClass) (frame : List Word) :
    (s.takeFarFrame p c frame).EntriesLive := by
  have hrestarted : (s.modPort p Port.restartIdle).EntriesLive := h.modPort_same fun _ => rfl
  unfold State.takeFarFrame
  split
  · exact ((h.movePort_active p).takeFrame p c frame).issuingPass
  · exact ((h.movePort_active p).takeFrame p c frame).issuingPass
  · exact hrestarted.takeFrame p c frame
  · exact h.takeFrame p c frame
  all_goals exact h

theorem loseLink (p : PortNo) : (s.loseLink p).EntriesLive := by
  unfold State.loseLink
  split
  iterate 4 exact (h.cutPort_movePort p _ _).issuingPass
  all_goals exact h

/-! ### The commands of a port -/

theorem portEnable (p : PortNo) : (s.portEnable p).1.EntriesLive := by
  unfold State.portEnable
  split
  · next hdisabled => exact h.modPort_idle (by rw [hdisabled]; rfl)
  · next hfaulted => exact h.modPort_idle (by rw [hfaulted]; rfl)
  all_goals exact h

/-- An ACTIVE port with entries drains; any other that is shut down has none (R110). -/
theorem portDisable (p : PortNo) : (s.portDisable p).1.EntriesLive := by
  unfold State.portDisable
  split
  · exact h
  · exact h
  · next hlinking => exact h.movePort_idle (by rw [hlinking]; rfl)
  · next hparked => exact h.movePort_idle (by rw [hparked]; rfl)
  · next hwaking => exact (h.answerHold p .aborted).movePort_idle (congrArg PortState.carriesEntries hwaking)
  · next hfaulted => exact h.movePort_idle (by rw [hfaulted]; rfl)
  · dsimp only
    split
    · next hcount => exact (h.answerHold p .aborted).movePort fun hne => absurd hcount hne
    · exact (h.answerHold p .aborted).modPort fun _ => rfl

theorem portRestart (p : PortNo) : (s.portRestart p).1.EntriesLive := by
  unfold State.portRestart
  split
  · exact h
  all_goals exact (h.cutPort_modPort p _ _).issuingPass

/-! ### The management window -/

theorem writeEnable (p : PortNo) (v : Word) : (s.writeEnable p v).1.EntriesLive := by
  unfold State.writeEnable
  split
  · exact h.portEnable p
  · exact h.portDisable p

theorem writeIdentity (off : Nat) (v : Word) : (s.writeIdentity off v).EntriesLive := by
  unfold State.writeIdentity
  split
  · exact h.modUp _
  · exact h.modDa _
  · exact h.modTb _
  · exact h.modEv _
  · exact h.modEv _
  · exact h

theorem writeWord (off : Nat) (v : Word) : (s.writeWord off v).1.EntriesLive := by
  unfold State.writeWord
  split
  · exact h.writeIdentity off v
  split
  · exact h.modMu _
  split
  · dsimp only
    split
    · exact h.writeEnable _ v
    · exact h.modPort_same fun q => q.writeConfig_state _ v
  split
  · exact h.modDa _
  split
  · exact h.modDa _
  · exact h

theorem accessWords (r : Request) : (s.accessWords r).1.EntriesLive :=
  List.foldlRecOn (motive := fun acc : State × Status => acc.1.EntriesLive) _ _ h
    fun _ hacc _ _ => hacc.writeWord _ _

theorem access (r : Request) : (s.access r).1.EntriesLive := by
  unfold State.access
  dsimp only
  split
  · exact (h.accessWords r).issuingPass
  · exact h.accessWords r

theorem serveWrite (r : Request) : (s.serveWrite r).EntriesLive := by
  unfold State.serveWrite
  split
  · exact h.answer _ _
  split
  · exact h.answer _ _
  split
  · exact h.answer _ _
  · exact (h.access r).answer _ _

theorem serveWriteIf (test : Request → Bool) : (s.serveWriteIf test).EntriesLive := by
  unfold State.serveWriteIf
  split
  · exact h
  split
  · exact (h.popMu.serveWrite _).settle
  · exact h

theorem serveRead (r : Request) : (s.serveRead r).EntriesLive := by
  unfold State.serveRead
  split
  · exact h.answer _ _
  split
  · exact h.answer _ _
  split <;> exact h.respond _

theorem commitAction (pair : Pair) : (s.commitAction pair).state.EntriesLive := by
  unfold State.commitAction
  split
  · exact h
  split
  · exact h
  · exact (h.modDa _).handEvent _ _ _ _

theorem stagingCopyAction : s.stagingCopyAction.state.EntriesLive := by
  unfold State.stagingCopyAction
  split
  · exact h
  · exact h.modDa _

theorem counterClearAction : s.counterClearAction.state.EntriesLive :=
  ((h.modDa _).modEv _).modPorts_same fun _ => rfl

theorem startReset (pair : Pair) : (s.startReset pair).EntriesLive :=
  ((h.modUp _).answerAll _ _).modMu _

theorem completeReset (pair : Pair) : (s.completeReset pair).EntriesLive :=
  (((h.answer _ _).record _ _ _).modUp _).modMu _

/-! ### The upstream link -/

/-- An entry keeps its port at the loss of the upstream link, and the ports keep their states (R92, R113). -/
theorem loseUpstream : s.loseUpstream.EntriesLive := by
  refine h.mono (fun n hn => ?_) fun p => ?_
  · have hget : s.loseUpstream.entry n = if (s.entry n).state = .opened then
        { s.entry n with state := .expired, timer := (s.port (s.entry n).port).timeoutTicks } else s.entry n :=
      Table.get_map ..
    rw [hget] at hn ⊢
    split at hn
    · next hopened =>
      rw [if_pos hopened, hopened]
      exact ⟨nofun, rfl⟩
    · next hother =>
      rw [if_neg hother]
      exact ⟨hn, rfl⟩
  · have hget : s.loseUpstream.port p = { s.port p with slot := [] } := Table.get_map ..
    rw [hget]

theorem helloFromController (identity : BitVec 4) : (s.helloFromController identity).EntriesLive := by
  unfold State.helloFromController
  split
  · exact (h.modUp _).handEvent _ _ _ _
  · exact h.loseUpstream

theorem acceptOrAnswer (f : ReqFields) : (s.acceptOrAnswer f).EntriesLive := by
  unfold State.acceptOrAnswer
  split
  · exact h.modEv _
  split
  · exact h.modEv _
  split
  · exact (h.modUp _).modEv _
  split
  · exact (h.modUp _).modEv _
  · exact (h.modUp _).modDa _

theorem takeUpFrame (frame : List Word) : (s.takeUpFrame frame).EntriesLive := by
  unfold State.takeUpFrame
  split
  · split
    · exact (h.modUp _).acceptOrAnswer _
    all_goals exact h.modEv _
  · exact h.modEv _

end

theorem takeCommand {c : Cmd} {r : Request} {body : CmdResult} (h : body.state.EntriesLive) :
    (takeCommand c r body).EntriesLive :=
  ((h.record _ _ _).answer _ _).settle

end State.EntriesLive

end Sys2Proof.Machine
end

section
/-! PROOF. Every step keeps the law of entries only on live ports (R90). -/
namespace Sys2Proof.Machine

/-- Whatever state the outcome gives next has the property. -/
def Ensures (P : State → Prop) (o : Host.Outcome State Fault Refusal) : Prop := ∀ t, o = .next t → P t

namespace Ensures
variable {P : State → Prop} {s t : State}

theorem next (h : P t) : Ensures P (.next t) := by
  rintro _ ⟨⟩
  exact h

theorem branch {c : Prop} [Decidable c] {a b : Host.Outcome State Fault Refusal} (ha : c → Ensures P a)
    (hb : ¬ c → Ensures P b) : Ensures P (if c then a else b) := by
  split
  · next hc => exact ha hc
  · next hc => exact hb hc

/-- A command that is due under a condition, and leaves the state otherwise (log 2). -/
theorem guarded {c : Prop} [Decidable c] (hs : P s) (ht : c → P t) :
    Ensures P (if c then .next t else .next s) :=
  branch (fun hc => next (ht hc)) fun _ => next hs

/-- A command that serves the request at the head of MU's queue, and leaves the state when there is none (log 2). -/
theorem served {k : Request → Host.Outcome State Fault Refusal} (hs : P s) (h : ∀ r, Ensures P (k r)) :
    Ensures P (match s.mu.head with | none => .next s | some r => k r) := by
  split
  · exact next hs
  · exact h _

end Ensures

section
variable {s : State} (h : s.EntriesLive)
include h

/-- A command of the command word, taken when the head carries it. -/
theorem command_entriesLive {c : Cmd} {action : Request → CmdResult} (ha : ∀ r, (action r).state.EntriesLive) :
    Ensures State.EntriesLive (match s.mu.head with
      | none => .next s
      | some r => if s.headCarries c r then .next (takeCommand c r (action r)) else .next s) :=
  .served h fun r => .guarded h fun _ => (ha r).takeCommand

theorem execTick_entriesLive : Ensures State.EntriesLive (execTick s) := by
  refine .next (h.mono (fun n hn => ?_) fun p => ?_)
  · simpa [State.entry, Entry.tick_state, Entry.tick_port] using hn
  · simp [State.port, Port.tick]

theorem execUpstreamLinkLoss_entriesLive (cause : LossCause) :
    Ensures State.EntriesLive (execUpstreamLinkLoss cause s) := by
  cases cause with
  | down arg check => exact .guarded h fun _ => h.loseUpstream.settle
  | symbolLock => exact .guarded h fun _ => h.loseUpstream.settle
  | hello arg check => exact .guarded h fun _ => (h.helloFromController _).settle

theorem execReqFrameReceived_entriesLive (frame : List Word) :
    Ensures State.EntriesLive (execReqFrameReceived frame s) := by
  unfold execReqFrameReceived
  split
  · exact .next h
  · exact .next (h.takeUpFrame frame).settle

theorem execDecode_entriesLive : Ensures State.EntriesLive (execDecode s) := by
  cases hintake : s.da.intake with
  | nil =>
    rw [execDecode, hintake]
    exact .next h
  | cons r rest =>
    rw [execDecode_cons hintake]
    have hhanded := (h.modDa fun d => { d with intake := rest }).handOff r (s.verdictOf r)
    exact .next (State.EntriesLive.settle (hhanded.of_same_entries rfl fun _ => rfl))

theorem execDownstreamFrame_entriesLive (p : PortNo) (frame : List Word) :
    Ensures State.EntriesLive (execDownstreamFrame p frame s) := by
  have hbad : (s.modPort p fun q => { q with bad := satInc q.bad }).EntriesLive := h.modPort_same fun _ => rfl
  refine .branch (fun _ => .branch (fun _ => ?_) fun _ => .next hbad) fun _ => .next h
  split
  · exact .next (h.takeFarFrame p .rsp frame).settle
  · exact .next (h.takeFarFrame p .ntf frame).settle
  all_goals exact .next hbad

theorem State.helloFromTarget_entriesLive (p : PortNo) : Ensures State.EntriesLive (s.helloFromTarget p) := by
  unfold State.helloFromTarget
  split
  · exact .next (h.movePort fun _ => rfl).issuingPass.settle
  iterate 4 exact .next (h.loseLink p).settle
  all_goals exact .next h

theorem execDownstreamLinkLoss_entriesLive (p : PortNo) (cause : LossCause) :
    Ensures State.EntriesLive (execDownstreamLinkLoss p cause s) := by
  cases cause with
  | down arg check => exact .guarded h fun _ => (h.loseLink p).settle
  | symbolLock => exact .guarded h fun _ => (h.loseLink p).settle
  | hello arg check => exact .branch (fun _ => State.helloFromTarget_entriesLive h p) fun _ => .next h

theorem execReadyOrWakeReceived_entriesLive (p : PortNo) (sym : WakeSymbol) (arg : SymArg) (check : SymCheck) :
    Ensures State.EntriesLive (execReadyOrWakeReceived p sym arg check s) := by
  refine .branch (fun _ => ?_) fun _ => .next h
  split
  iterate 2 exact .next (h.movePort_active p).issuingPass.settle
  all_goals exact .next h

theorem execEntryTimeout_entriesLive (n : EntryNo) : Ensures State.EntriesLive (execEntryTimeout n s) := by
  refine .guarded h fun ⟨hopened, _⟩ => ?_
  have hopen : (s.entry n).state ≠ .free := by simp [hopened]
  exact ((((h.answer _ _).expireEntry hopen).withdraw _ n).handEvent _ _ _ _).settle

theorem execUnknownCommand_entriesLive : Ensures State.EntriesLive (execUnknownCommand s) := by
  refine .served h fun r => ?_
  split
  · exact .next h
  split
  · exact .next h
  · exact .next ((h.popMu.record _ _ _).answer _ _).settle

theorem execTrafficPhase_entriesLive : Ensures State.EntriesLive (execTrafficPhase s) := by
  unfold execTrafficPhase
  split
  · exact .next (State.EntriesLive.settle (State.entriesLive_of_powerOn rfl))
  all_goals exact .next h

theorem execCapturePhase_entriesLive : Ensures State.EntriesLive (execCapturePhase s) := by
  unfold execCapturePhase
  split
  · exact .next ((h.modDa _).modMu _)
  all_goals exact .next h

theorem execSegmentResetCompletion_entriesLive : Ensures State.EntriesLive (execSegmentResetCompletion s) := by
  unfold execSegmentResetCompletion
  split
  · exact .next (h.completeReset _).settle
  all_goals exact .next h

/-- An idle port has count 0 (R103). -/
theorem execIdleTimerExpiry_entriesLive (p : PortNo) : Ensures State.EntriesLive (execIdleTimerExpiry p s) := by
  refine .guarded h fun ⟨_, hidle⟩ => ?_
  simp only [State.idleHolds, Bool.and_eq_true, decide_eq_true_eq] at hidle
  obtain ⟨⟨⟨-, hcount⟩, -⟩, -⟩ := hidle
  exact (h.modPort fun hne => absurd hcount hne).settle

/-- Every command keeps the law. -/
theorem exec_entriesLive (c : Instr) : Ensures State.EntriesLive (exec c s) := by
  cases c with
  | por straps => exact .next (State.entriesLive_of_powerOn rfl)
  | pinReset straps => exact .next (State.entriesLive_of_powerOn rfl)
  | tick => exact execTick_entriesLive h
  -- the upstream link and the egress queue
  | upstreamHelloTimerExpiry => exact .guarded h fun _ => h.modUp _
  | upstreamHello arg check => exact .guarded h fun _ => (h.helloFromController _).settle
  | upstreamLinkLoss cause => exact execUpstreamLinkLoss_entriesLive h cause
  | reqFrameReceived frame => exact execReqFrameReceived_entriesLive h frame
  | upstreamRspNtfFrame frame => exact execReqFrameReceived_entriesLive h frame
  | upstreamGrant arg check => exact .guarded h fun _ => (h.modUp _).settle
  | upstreamPark arg check => exact .guarded h fun _ => (h.modUp _).settle
  | upstreamWake arg check => exact .guarded h fun _ => (h.modUp _).settle
  | egressSend => exact .guarded h fun _ => (h.modUp _).settle
  | notificationClaim p => exact .guarded h fun _ => (h.takeClaim _).settle
  | eventClaim => exact .guarded h fun _ => (h.takeClaim _).settle
  | decode => exact execDecode_entriesLive h
  -- the ports and the transaction table
  | downstreamFrame p frame => exact execDownstreamFrame_entriesLive h p frame
  | downstreamGrantReq p arg check => exact .guarded h fun _ => h.modPort_same fun q => Port.sendMany_state _ _
  | portSend p => exact .next (h.modPort_same Port.sendHead_state)
  | entryTimeout n => exact execEntryTimeout_entriesLive h n
  | quarantineEnd n => exact .guarded h fun _ => ((h.freeEntry n).issuingPass.finishDrain _).settle
  | portHelloTimerExpiry p => exact .guarded h fun _ => h.modPort_same fun _ => rfl
  | portHelloReceived p arg check => exact .branch (fun _ => State.helloFromTarget_entriesLive h p) fun _ => .next h
  | linkTimerExpiry p =>
    exact .guarded h fun ⟨hlinking, _⟩ => (h.movePort_idle (by rw [hlinking]; rfl)).settle
  | downstreamLinkLoss p cause => exact execDownstreamLinkLoss_entriesLive h p cause
  | idleTimerExpiry p => exact execIdleTimerExpiry_entriesLive h p
  | readyOrWakeReceived p sym arg check => exact execReadyOrWakeReceived_entriesLive h p sym arg check
  | wakeTimerExpiry p =>
    exact .guarded h fun ⟨hwaking, _⟩ =>
      ((h.answerHold p .targetLost).movePort_idle (congrArg PortState.carriesEntries hwaking)).settle
  -- the accesses of MU
  | managementRead => exact .served h fun r => .guarded h fun _ => (h.popMu.serveRead r).settle
  | managementWrite => exact .next (h.serveWriteIf _)
  | stagingWrite => exact .next (h.serveWriteIf _)
  | portConfigurationWrite => exact .next (h.serveWriteIf _)
  | eventOverflowClear => exact .next (h.serveWriteIf _)
  -- the commands of the command word
  | commit => exact command_entriesLive h fun r => h.popMu.commitAction r.pair
  | stagingCopy => exact command_entriesLive h fun _ => h.popMu.stagingCopyAction
  | lock => exact command_entriesLive h fun _ => h.popMu.modDa _
  | clearAll => exact command_entriesLive h fun _ => (h.popMu.modDa _).handEvent _ _ _ _
  | portEnable =>
    exact .served h fun r => .branch (fun _ => .next (h.popMu.portEnable _).takeCommand)
      fun _ => .next (h.serveWriteIf _)
  | portDisable =>
    exact .served h fun r => .branch (fun _ => .next (h.popMu.portDisable _).takeCommand)
      fun _ => .next (h.serveWriteIf _)
  | portRestart => exact command_entriesLive h fun _ => h.popMu.portRestart _
  | captureClear => exact command_entriesLive h fun _ => h.popMu.modDa _
  | counterClear => exact command_entriesLive h fun _ => h.popMu.counterClearAction
  | unknownCommand => exact execUnknownCommand_entriesLive h
  | segmentReset => exact .served h fun r => .guarded h fun _ => (h.popMu.startReset r.pair).settle
  | trafficPhase => exact execTrafficPhase_entriesLive h
  | capturePhase => exact execCapturePhase_entriesLive h
  | segmentResetCompletion => exact execSegmentResetCompletion_entriesLive h

theorem step_entriesLive : Ensures State.EntriesLive (step s) := by
  unfold step
  split
  · exact .next (h.modTb Timebase.period)
  · next c rest _ =>
    have hqueue : ({ s with pending := rest } : State).EntriesLive := h
    exact exec_entriesLive hqueue c

end

/-- Settles O57, by the rule of each command. -/
theorem entriesStayOnLivePorts : Obligations.EntriesStayOnLivePorts := fun _ t h hstep =>
  State.entriesLive_iff.1 (step_entriesLive (State.entriesLive_iff.2 h) t hstep)

end Sys2Proof.Machine
end

section
/-! PROOF. The law of the valid active image (R2): a COMMIT loads an image that passed validation, CLEAR-ALL and the resets
the boot image or the one that stood, and no other command reaches the active image. -/
namespace Sys2Proof.Machine

theorem Image.boot_valid : Image.boot.Valid := by decide +kernel

/-! ### Writes to the management window leave the active image -/

section
variable (s : State)

theorem State.writeIdentity_active (off : Nat) (v : Word) : (s.writeIdentity off v).da.active = s.da.active := by
  unfold State.writeIdentity
  split <;> rfl

theorem State.writeWord_active (off : Nat) (v : Word) : (s.writeWord off v).1.da.active = s.da.active := by
  unfold State.writeWord
  split
  · exact s.writeIdentity_active off v
  split
  · rfl
  split
  · dsimp only
    split
    · simp
    · rfl
  split
  · rfl
  · by_cases hstaging : isStagingWord off = true <;> simp [hstaging]

theorem State.accessWords_active (r : Request) : (s.accessWords r).1.da.active = s.da.active :=
  List.foldlRecOn (motive := fun acc : State × Status => acc.1.da.active = s.da.active) _ _ rfl
    fun acc hacc _ _ => (acc.1.writeWord_active _ _).trans hacc

theorem State.access_active (r : Request) : (s.access r).1.da.active = s.da.active := by
  unfold State.access
  dsimp only
  split
  · rw [State.issuingPass_da, s.accessWords_active]
  · exact s.accessWords_active r

theorem State.serveWrite_active (r : Request) : (s.serveWrite r).da.active = s.da.active := by
  unfold State.serveWrite
  split
  · rfl
  split
  · rfl
  split
  · rfl
  · rw [State.answer_da, s.access_active]

theorem State.serveWriteIf_active (test : Request → Bool) : (s.serveWriteIf test).da.active = s.da.active := by
  unfold State.serveWriteIf
  split
  · rfl
  split
  · rw [State.settle_da, State.serveWrite_active, State.popMu_da]
  · rfl

end

/-! ### The law -/

/-- The active image meets every condition of R58. -/
def State.ActiveValid (s : State) : Prop := s.da.active.Valid

theorem State.ActiveValid.congr {s t : State} (h : s.ActiveValid) (heq : t.da.active = s.da.active) : t.ActiveValid := by
  rw [State.ActiveValid, heq]
  exact h

/-- A command that leaves the banks keeps the law. -/
theorem KeepsBanks.activeValid {s : State} {o : Host.Outcome State Fault Refusal} (h : KeepsBanks s o)
    (hv : s.ActiveValid) : Ensures State.ActiveValid o := fun t ht => hv.congr (Da.banks_eq_iff.1 (h t ht)).1

section
variable {s : State} (h : s.ActiveValid)
include h

/-- A COMMIT loads the staging image only when validation finds no failure (R57, R60). -/
theorem State.commitAction_activeValid (pair : Pair) : (s.commitAction pair).state.ActiveValid := by
  unfold State.commitAction
  split
  · exact h
  split
  · exact h
  · next hvalid => exact hvalid

theorem State.stagingCopyAction_activeValid : s.stagingCopyAction.state.ActiveValid := by
  unfold State.stagingCopyAction
  split <;> exact h

/-- A pin reset keeps the active image or loads the boot image (R68). -/
theorem Da.pinReset_activeValid (straps : Straps) : (s.da.pinReset straps).active.Valid := by
  rw [Da.pinReset]
  dsimp only
  split
  · exact h
  · exact Image.boot_valid

/-- A command of the command word, taken when the head carries it. -/
theorem command_activeValid {c : Cmd} {action : Request → CmdResult} (ha : ∀ r, (action r).state.ActiveValid) :
    Ensures State.ActiveValid (match s.mu.head with
      | none => .next s
      | some r => if s.headCarries c r then .next (takeCommand c r (action r)) else .next s) :=
  .served h fun r => .guarded h fun _ => (ha r).congr (by rw [takeCommand_da])

theorem exec_activeValid (c : Instr) : Ensures State.ActiveValid (exec c s) := by
  have hwrite : ∀ test, Ensures State.ActiveValid (.next (s.serveWriteIf test)) := fun test =>
    .next (h.congr (s.serveWriteIf_active test))
  cases c with
  | por straps => exact .next Image.boot_valid
  | pinReset straps => exact .next (Da.pinReset_activeValid h straps)
  | tick => exact .next h
  -- the upstream link and the egress queue
  | upstreamHelloTimerExpiry => exact .guarded h fun _ => h
  | upstreamHello arg check =>
    have hkeeps : KeepsBanks s (execUpstreamLinkLoss (.hello arg check) s) := execUpstreamLinkLoss_keepsBanks s _
    exact hkeeps.activeValid h
  | upstreamLinkLoss cause => exact (execUpstreamLinkLoss_keepsBanks s cause).activeValid h
  | reqFrameReceived frame => exact (execReqFrameReceived_keepsBanks s frame).activeValid h
  | upstreamRspNtfFrame frame => exact (execUpstreamRspNtfFrame_keepsBanks s frame).activeValid h
  | upstreamGrant arg check => exact .guarded h fun _ => h.congr (by simp)
  | upstreamPark arg check => exact .guarded h fun _ => h.congr (by simp)
  | upstreamWake arg check => exact .guarded h fun _ => h.congr (by simp)
  | egressSend => exact .guarded h fun _ => h.congr (by simp)
  | notificationClaim p => exact .guarded h fun _ => h.congr (by simp)
  | eventClaim => exact .guarded h fun _ => h.congr (by simp)
  | decode => exact (execDecode_keepsBanks s).activeValid h
  -- the ports and the transaction table
  | downstreamFrame p frame => exact (execDownstreamFrame_keepsBanks s p frame).activeValid h
  | downstreamGrantReq p arg check => exact .guarded h fun _ => h
  | portSend p => exact .next h
  | entryTimeout n => exact .guarded h fun _ => h.congr (by simp)
  | quarantineEnd n => exact .guarded h fun _ => h.congr (by simp)
  | portHelloTimerExpiry p => exact .guarded h fun _ => h
  | portHelloReceived p arg check => exact (execPortHelloReceived_keepsBanks s p arg check).activeValid h
  | linkTimerExpiry p => exact .guarded h fun _ => h.congr (by simp)
  | downstreamLinkLoss p cause => exact (execDownstreamLinkLoss_keepsBanks s p cause).activeValid h
  | idleTimerExpiry p => exact .guarded h fun _ => h.congr (by simp)
  | readyOrWakeReceived p sym arg check => exact (execReadyOrWakeReceived_keepsBanks s p sym arg check).activeValid h
  | wakeTimerExpiry p => exact .guarded h fun _ => h.congr (by simp)
  -- the accesses of MU
  | managementRead => exact .served h fun r => .guarded h fun _ => h.congr (by simp)
  | managementWrite => exact hwrite _
  | stagingWrite => exact hwrite _
  | portConfigurationWrite => exact hwrite _
  | eventOverflowClear => exact hwrite _
  -- the commands of the command word
  | commit => exact command_activeValid h fun r => State.commitAction_activeValid (s := s.popMu) h r.pair
  | stagingCopy => exact command_activeValid h fun _ => State.stagingCopyAction_activeValid (s := s.popMu) h
  | lock => exact command_activeValid h fun _ => h
  | clearAll => exact command_activeValid h fun _ => Image.boot_valid
  | portEnable =>
    exact .served h fun r => .branch (fun _ => .next (h.congr (by simp [portResult]))) fun _ => hwrite _
  | portDisable =>
    exact .served h fun r => .branch (fun _ => .next (h.congr (by simp [portResult]))) fun _ => hwrite _
  | portRestart => exact command_activeValid h fun _ => h.congr (by simp [portResult])
  | captureClear => exact command_activeValid h fun _ => h
  | counterClear => exact command_activeValid h fun _ => h
  | unknownCommand => exact (execUnknownCommand_keepsBanks s).activeValid h
  | segmentReset => exact .served h fun r => .guarded h fun _ => h.congr (by simp)
  | trafficPhase => exact (execTrafficPhase_keepsBanks s).activeValid h
  | capturePhase => exact (execCapturePhase_keepsBanks s).activeValid h
  | segmentResetCompletion => exact (execSegmentResetCompletion_keepsBanks s).activeValid h

end

/-- A law that every command keeps, and a period of REFCLK too, is kept by every step: the command is taken off the queue,
which no law reads. -/
theorem Ensures.step {P : State → Prop} {s : State} (hidle : P s.idle)
    (hexec : ∀ (c : Instr) (rest : List Instr), Ensures P (exec c { s with pending := rest })) : Ensures P (step s) := by
  unfold Machine.step
  split
  · exact .next hidle
  · exact hexec _ _

/-- Settles O55, by the rule of each command. -/
theorem activeImageStaysValid : Obligations.ActiveImageStaysValid := fun s t h hstep =>
  Ensures.step (P := State.ActiveValid) h (fun c rest => exec_activeValid (s := { s with pending := rest }) h c) t hstep

end Sys2Proof.Machine
end

section
/-! PROOF. The registers that every step keeps legal (R41, R70, R95, R96, R131, R173): the laws of one port, one entry, one
cell, UP and TB by themselves, and one rule per shared operation. -/
namespace Sys2Proof.Machine

/-! ### One port (R95, R96) -/

/-- The ranged configuration items hold values in their ranges (R96). -/
def Port.ConfigLegal (q : Port) : Prop :=
  1 ≤ q.limit.toNat ∧ q.limit.toNat ≤ 16 ∧ q.respTimeout ≠ 0#16 ∧ q.wakeTimeout ≠ 0#8 ∧ q.linkTimeout ≠ 0#8

/-- The laws of one port: its timers belong to its state and its configuration is in range. -/
def Port.Legal (q : Port) : Prop := q.TimersBelong ∧ q.ConfigLegal

theorem Port.powerOn_legal : Port.powerOn.Legal := by
  unfold Port.Legal Port.TimersBelong Port.ConfigLegal
  decide

namespace Port.Legal
variable {q : Port} (h : q.Legal)
include h

theorem enterLinking (segId : BitVec 4) : (q.enterLinking segId).Legal :=
  ⟨by simp [Port.TimersBelong, Port.enterLinking], h.2⟩

theorem enterActive : q.enterActive.Legal := ⟨by simp [Port.TimersBelong, Port.enterActive], h.2⟩

theorem enterFaulted (why : FaultReason) (hwhy : why ≠ .noFault) : (q.enterFaulted why).Legal :=
  ⟨by simp [Port.TimersBelong, Port.enterFaulted, hwhy], h.2⟩

theorem enterDisabled : q.enterDisabled.Legal := ⟨by simp [Port.TimersBelong, Port.enterDisabled], h.2⟩

theorem enterDraining (hactive : q.state = .active) : q.enterDraining.Legal := by
  refine ⟨?_, h.2⟩
  have := h.1
  simp_all [Port.TimersBelong, Port.enterDraining]

theorem enterParked (hactive : q.state = .active) : q.enterParked.Legal := by
  refine ⟨?_, h.2⟩
  have := h.1
  simp_all [Port.TimersBelong, Port.enterParked]

theorem enterWaking (hparked : q.state = .parked) : q.enterWaking.Legal := by
  refine ⟨?_, h.2⟩
  have := h.1
  simp_all [Port.TimersBelong, Port.enterWaking]

/-- A HELLO interval that starts again runs on, while LINKING. -/
theorem restartHello (hlinking : q.state = .linking) (k : Nat) : Port.Legal { q with helloTimer := some k } := by
  refine ⟨?_, h.2⟩
  have := h.1
  simp_all [Port.TimersBelong]

/-- An idle timer may be set where the port is ACTIVE, and stopped anywhere. -/
theorem setIdle {t : Option Nat} (ht : t.isSome = true → q.state = .active) :
    Port.Legal { q with idleTimer := t } := by
  obtain ⟨⟨hlink, hhello, hwake, -, hreason⟩, hconfig⟩ := h
  exact ⟨⟨hlink, hhello, hwake, ht, hreason⟩, hconfig⟩

theorem restartIdle : q.restartIdle.Legal := h.setIdle fun ht => by
  obtain ⟨⟨-, -, -, hidle, -⟩, -⟩ := h
  exact hidle (by simpa using ht)

theorem sendHead : q.sendHead.Legal := by
  unfold Port.sendHead
  split
  · exact h
  split
  · next slot _ _ =>
    exact restartIdle (q := ({ q with slot := slot, credit := q.credit.spend } : Port).put _) h
  · exact h

theorem sendMany (n : Nat) : (Port.sendMany n q).Legal := by
  induction n generalizing q with
  | zero => exact h
  | succ n ih =>
    rw [Port.sendMany]
    split
    · exact ih h.sendHead
    · exact h

theorem takeNotification (n : Option Ntf) : (q.takeNotification n).Legal := by
  unfold Port.takeNotification
  dsimp only
  split
  · exact h
  split
  · exact h
  split
  · exact h
  split <;> exact h

theorem tick : q.tick.Legal := by
  refine ⟨?_, h.2⟩
  have := h.1
  simpa [Port.TimersBelong, Port.tick, timerTick] using this

/-- A value out of range keeps the item (R154). -/
theorem writeConfig (k : Nat) (v : Word) : (q.writeConfig k v).Legal := by
  obtain ⟨htimers, hlow, hhigh, hresp, hwake, hlink⟩ := h
  unfold Port.writeConfig
  split
  · refine ⟨htimers, ?_, ?_, hresp, hwake, hlink⟩ <;> dsimp only [inRange] <;> split <;> simp_all
  · refine ⟨htimers, hlow, hhigh, ?_, hwake, hlink⟩
    dsimp only [inRange]
    split <;> simp_all
  · exact ⟨htimers, hlow, hhigh, hresp, hwake, hlink⟩
  · refine ⟨htimers, hlow, hhigh, hresp, ?_, hlink⟩
    dsimp only [inRange]
    split <;> simp_all
  · refine ⟨htimers, hlow, hhigh, hresp, hwake, ?_⟩
    dsimp only [inRange]
    split <;> simp_all
  · exact ⟨htimers, hlow, hhigh, hresp, hwake, hlink⟩
  · exact ⟨htimers, hlow, hhigh, hresp, hwake, hlink⟩

theorem trafficReset (segId : BitVec 4) : (q.trafficReset segId).Legal := by
  unfold Port.trafficReset
  split
  · exact h
  all_goals exact enterLinking (q := Port.put { q with slot := [] } _) h segId

/-- With RETAIN the configuration is kept, without it the defaults return (R97, R117). -/
theorem pinReset (retain : Bool) (segId : BitVec 4) : (q.pinReset retain segId).Legal := by
  have hkept : Port.Legal { Port.powerOn with
      sent := q.sent, limit := q.limit, respTimeout := q.respTimeout, idleInterval := q.idleInterval
      wakeTimeout := q.wakeTimeout, linkTimeout := q.linkTimeout, notify := q.notify } := ⟨Port.powerOn_legal.1, h.2⟩
  unfold Port.pinReset
  dsimp only
  split
  · split
    · exact hkept
    · exact hkept.enterLinking segId
  · exact Port.powerOn_legal

end Port.Legal

/-! ### One cell (R41) and TB (R173) -/

/-- An EMPTY cell holds a zeroed record and a load count of 0 (R41). -/
def Cell.Legal (c : Cell) : Prop := c.full = false → c = c.emptied

theorem Cell.emptied_legal (c : Cell) : c.emptied.Legal := fun _ => rfl

theorem Cell.Legal.writeConfig {c : Cell} (h : c.Legal) (k : Nat) (v : Word) : (c.writeConfig k v).Legal := by
  unfold Cell.writeConfig
  split
  · intro hempty
    rw [h hempty]
    rfl
  · intro hempty
    rw [h hempty]
    rfl
  · exact h

/-- The tick under way has a length it has not passed, and the divider gives the next one (R173). -/
def Timebase.Legal (t : Timebase) : Prop := t.divider ≠ 0#8 ∧ t.tickLength ≠ 0#8 ∧ t.progress ≤ t.tickLength.toNat

theorem Timebase.powerOn_legal : Timebase.powerOn.Legal := by
  unfold Timebase.Legal
  decide

namespace Timebase.Legal
variable {t : Timebase} (h : t.Legal)
include h

theorem tick : t.tick.Legal := ⟨h.1, h.1, Nat.zero_le _⟩

theorem period : t.period.Legal := by
  obtain ⟨hdivider, hlength, hprogress⟩ := h
  refine ⟨hdivider, hlength, ?_⟩
  simp only [Timebase.period]
  split <;> omega

theorem writeDivider (v : Word) : (t.writeDivider v).Legal := by
  obtain ⟨hdivider, hlength, hprogress⟩ := h
  unfold Timebase.writeDivider inRange
  dsimp only
  split
  · next hwritten =>
    have hne : v.extractLsb' 0 8 ≠ 0#8 := by simpa using hwritten
    refine ⟨hne, ?_, ?_⟩
    · dsimp only
      split <;> assumption
    · dsimp only
      split <;> omega
  · exact ⟨hdivider, hlength, hprogress⟩

theorem pinReset (retain : Bool) : (t.pinReset retain).Legal := by
  cases retain
  · exact Timebase.powerOn_legal
  · exact ⟨h.1, h.1, Nat.zero_le _⟩

end Timebase.Legal

/-! ### The state -/

/-- Every register is legal by itself. -/
structure State.Legal (s : State) : Prop where
  ports : ∀ p, (s.port p).Legal
  up : s.up.HelloRuns
  tb : s.tb.Legal
  entries : s.FreeEntriesBlank
  cells : ∀ c, (s.da.cells.get c).Legal

theorem State.legal_iff {s : State} : s.Legal ↔ (∀ p, (s.port p).TimersBelong) ∧ s.up.HelloRuns ∧ s.ConfigInRange
    ∧ s.FreeEntriesBlank ∧ s.da.EmptyCellsZero := by
  constructor
  · intro h
    exact ⟨fun p => (h.ports p).1, h.up, ⟨fun p => (h.ports p).2, h.tb⟩, h.entries, h.cells⟩
  · rintro ⟨htimers, hup, ⟨hconfig, htb⟩, hentries, hcells⟩
    exact ⟨fun p => ⟨htimers p, hconfig p⟩, hup, htb, hentries, hcells⟩

theorem State.powerOn_blank {s : State} (h : s.tt = Tt.powerOn) : s.FreeEntriesBlank := fun n _ => by
  simp [State.entry, h, Tt.powerOn]

namespace State.Legal
variable {s t : State} (h : s.Legal)
include h

/-! What leaves the registers, or changes one block. -/

theorem modMu (f : Mu → Mu) : (s.modMu f).Legal := ⟨h.ports, h.up, h.tb, h.entries, h.cells⟩
theorem modEv (f : Events → Events) : (s.modEv f).Legal := ⟨h.ports, h.up, h.tb, h.entries, h.cells⟩
theorem handEvent (kind : EventKind) (locus : Locus) (pair : Option Pair) (detail : Word) :
    (s.handEvent kind locus pair detail).Legal := h.modEv _
theorem popMu : s.popMu.Legal := h.modMu _
theorem record (command : BitVec 8) (status : Status) (detail : Word) : (s.record command status detail).Legal :=
  h.modMu _

theorem modTb {f : Timebase → Timebase} (hf : (f s.tb).Legal) : (s.modTb f).Legal :=
  ⟨h.ports, h.up, hf, h.entries, h.cells⟩

theorem modDa {f : Da → Da} (hf : ∀ c, ((f s.da).cells.get c).Legal) : (s.modDa f).Legal :=
  ⟨h.ports, h.up, h.tb, h.entries, hf⟩

/-- A change of DA that leaves the cells. -/
theorem modDa_same {f : Da → Da} (hf : (f s.da).cells = s.da.cells) : (s.modDa f).Legal :=
  h.modDa (by rw [hf]; exact h.cells)

theorem modUp {f : Up → Up} (hf : (f s.up).HelloRuns) : (s.modUp f).Legal := ⟨h.ports, hf, h.tb, h.entries, h.cells⟩

theorem modUp_same {f : Up → Up} (hlink : (f s.up).link = s.up.link) (hhello : (f s.up).hello = s.up.hello) :
    (s.modUp f).Legal := h.modUp (by rw [Up.HelloRuns, hlink, hhello]; exact h.up)

/-- A change of TT that fills, expires or frees entries. -/
theorem modTt {f : Tt → Tt}
    (hf : ∀ n, ((f s.tt).entries.get n).state = .free → (f s.tt).entries.get n = Entry.blank) : (s.modTt f).Legal :=
  ⟨h.ports, h.up, h.tb, hf, h.cells⟩

theorem modPort {p : PortNo} {f : Port → Port} (hf : (f (s.port p)).Legal) : (s.modPort p f).Legal := by
  refine ⟨fun q => ?_, h.up, h.tb, h.entries, h.cells⟩
  rw [State.modPort_port]
  split
  · next heq => exact heq ▸ hf
  · exact h.ports q

theorem modPorts {f : Port → Port} (hf : ∀ q : Port, q.Legal → (f q).Legal) : (s.modPorts f).Legal :=
  ⟨fun p => by rw [State.modPorts_port]; exact hf _ (h.ports p), h.up, h.tb, h.entries, h.cells⟩

theorem movePort {p : PortNo} {f : Port → Port} (hf : (f (s.port p)).Legal) : (s.movePort p f).Legal :=
  (h.modPort hf).handEvent _ _ _ _

/-! Answers. -/

theorem respond (r : Rsp) : (s.respond r).Legal :=
  h.modUp_same (by rw [Up.respond_frame]) (by rw [Up.respond_frame])

theorem answer (pair : Pair) (status : Status) : (s.answer pair status).Legal := h.respond _

theorem answerAll (pairs : List Pair) (status : Status) : (s.answerAll pairs status).Legal := by
  rw [State.answerAll_eq]
  exact h.modUp_same (f := fun u => (pairs.map fun pair => plainRsp pair status).foldl Up.respond u)
    (by rw [Up.foldl_respond_frame]) (by rw [Up.foldl_respond_frame])

theorem answerHold (p : PortNo) (status : Status) : (s.answerHold p status).Legal :=
  (h.answerAll _ _).modTt h.entries

/-! TT and the ports. -/

theorem joinHold (p : PortNo) (r : Request) : (s.joinHold p r).Legal := h.modTt h.entries

/-- One entry replaced by one that is blank or not FREE. -/
theorem setEntry {e : Entry} (n : EntryNo) (he : e.state = .free → e = Entry.blank) :
    (s.modTt fun t => { t with entries := t.entries.set n e }).Legal := by
  refine h.modTt fun m hm => ?_
  dsimp only at hm ⊢
  rw [Table.get_set] at hm ⊢
  split at hm
  · next heq => rw [if_pos heq, he hm]
  · next hne =>
    rw [if_neg hne]
    exact h.entries m hm

theorem freeEntry (n : EntryNo) : (s.freeEntry n).Legal := h.setEntry n fun _ => rfl

theorem expireEntry (n : EntryNo) : (s.expireEntry n).Legal :=
  h.setEntry (e := { s.entry n with state := .expired, timer := (s.port (s.entry n).port).timeoutTicks }) n nofun

theorem issueInto (n : EntryNo) (p : PortNo) (r : Request) : (s.issueInto n p r).Legal :=
  (h.setEntry (e := s.issuedEntry p r) n nofun).modPort (h.ports p)

theorem issued (n : EntryNo) (p : PortNo) (r : Request) (rest : List Request) : (s.issued n p r rest).Legal :=
  (h.modTt (f := fun t => { t with holds := t.holds.set p rest, rr := p + 1 }) h.entries).issueInto n p r

theorem issuingPass : s.issuingPass.Legal :=
  State.passRounds_induction h fun _ p n r rest ht _ _ _ => ht.issued n p r rest

theorem withdraw (p : PortNo) (n : EntryNo) : (s.withdraw p n).Legal := h.modPort (h.ports p)

theorem finishDrain (p : PortNo) : (s.finishDrain p).Legal := by
  unfold State.finishDrain
  split
  · exact h.movePort (Port.Legal.enterDisabled (q := (s.port p).put _) (h.ports p))
  · exact h

theorem freePort (p : PortNo) : (s.modTt fun t => t.freePort p).Legal := by
  refine h.modTt fun n hn => ?_
  simp only [Tt.freePort, Table.get_map] at hn ⊢
  split at hn
  · next hnames => rw [if_pos hnames]
  · next hkept =>
    rw [if_neg hkept]
    exact h.entries n hn

theorem cutPort (p : PortNo) (status : Status) : (s.cutPort p status).Legal :=
  have hanswered := ((h.answerAll (s.tt.openPairs fun e => e.port = p) status).freePort p).answerHold p status
  hanswered.modPort (hanswered.ports p)

/-! The claims and the end of a happening. -/

theorem takeClaim (c : Claimant) : (s.takeClaim c).Legal := by
  cases c with
  | port p =>
    simp only [State.takeClaim]
    split
    · exact h
    · exact (h.modUp_same rfl rfl).modPort (h.ports p)
  | events =>
    simp only [State.takeClaim]
    split
    · exact h
    · exact (h.modUp_same rfl rfl).modEv _

/-- The end of a happening starts an idle timer in ACTIVE alone (R103). -/
theorem settle : s.settle.Legal := by
  have hcloses := s.settle_closes
  refine ⟨fun p => ?_, ?_, by rw [hcloses.tb]; exact h.tb, fun n hn => ?_, fun c => ?_⟩
  · rw [hcloses.port p]
    refine (h.ports p).setIdle fun hruns => ?_
    unfold State.idleTimerOf at hruns
    split at hruns
    · next hidle =>
      simp only [State.idleHolds, Bool.and_eq_true, decide_eq_true_eq] at hidle
      exact hidle.1.1.1
    · cases hruns
  · rw [hcloses.up]
    exact h.up
  · rw [State.entry, hcloses.tt] at hn ⊢
    exact h.entries n hn
  · rw [hcloses.da]
    exact h.cells c

/-! ### Decoded requests and what a target sends -/

theorem holdOrBusy (p : PortNo) (r : Request) : (s.holdOrBusy p r).Legal := by
  unfold State.holdOrBusy
  split
  · exact h.joinHold p r
  · exact h.answer _ _

theorem takeDecoded (p : PortNo) (r : Request) : (s.takeDecoded p r).Legal := by
  unfold State.takeDecoded
  split
  iterate 4 exact h.answer _ _
  · next hparked => exact (h.joinHold p r).modPort ((h.ports p).enterWaking hparked)
  · exact h.holdOrBusy p r
  · split
    · split
      · exact h.issueInto _ p r
      · exact h.holdOrBusy p r
    · exact h.holdOrBusy p r

theorem takeMgmt (r : Request) : (s.takeMgmt r).Legal := by
  unfold State.takeMgmt
  split
  · exact (h.answer _ _).modMu _
  split
  · exact h.modMu _
  · exact h.answer _ _

theorem handOff (r : Request) (v : Verdict) : (s.handOff r v).Legal := by
  cases v with
  | toPort p addr => exact h.takeDecoded p _
  | toMgmt => exact h.takeMgmt r
  | refuse status => exact h.answer _ _

omit h in
/-- A decode leaves a cell as it was, or makes it FULL (R44, R45). -/
theorem loadedCell (hits : List TermNo) (r : Request) (route : Route) (c : CellNo) {x : Cell} (hx : x.Legal) :
    (s.loadedCell hits r route c x).Legal := by
  unfold State.loadedCell
  split
  · exact hx
  split
  · exact nofun
  · exact hx

/-- What every decode does, laid over a legal state. -/
theorem withDecode (ht : t.Legal) (rest : List Request) (r : Request) : (s.withDecode rest r t).Legal :=
  ⟨ht.ports, ht.up, ht.tb, ht.entries, fun c => by
    simp only [State.withDecode, Table.get_imap]
    exact loadedCell _ r _ c (h.cells c)⟩

theorem takeAnswer (p : PortNo) (n : EntryNo) (r : TargetRsp) : (s.takeAnswer p n r).Legal :=
  ((((h.respond _).freeEntry n).withdraw p n).issuingPass).finishDrain p

theorem takeLate (p : PortNo) (n : EntryNo) (r : TargetRsp) : (s.takeLate p n r).Legal :=
  have hfreed := h.freeEntry n
  ((hfreed.modPort (p := p) (f := fun q => { q with late := satInc q.late }) (hfreed.ports p)).handEvent
    _ _ _ _).issuingPass.finishDrain p

theorem takeStray (p : PortNo) (tag : BitVec 6) : (s.takeStray p tag).Legal :=
  (h.modPort (p := p) (f := fun q => { q with stray := satInc q.stray }) (h.ports p)).handEvent _ _ _ _

theorem matchResponse (p : PortNo) (r : TargetRsp) : (s.matchResponse p r).Legal := by
  unfold State.matchResponse
  split
  · dsimp only
    split
    · split
      · exact h.takeAnswer p _ r
      · exact h.takeLate p _ r
      · exact h.takeStray p r.tag
    · exact h.takeStray p r.tag
  · exact h.takeStray p r.tag

theorem takeFrame (p : PortNo) (c : FrameClass) (frame : List Word) : (s.takeFrame p c frame).Legal := by
  cases c with
  | rsp => exact h.matchResponse p _
  | ntf => exact h.modPort ((h.ports p).takeNotification _)
  | req => exact h

theorem takeFarFrame (p : PortNo) (c : FrameClass) (frame : List Word) : (s.takeFarFrame p c frame).Legal := by
  unfold State.takeFarFrame
  split
  iterate 2 exact ((h.movePort (h.ports p).enterActive).takeFrame p c frame).issuingPass
  · exact (h.modPort (h.ports p).restartIdle).takeFrame p c frame
  · exact h.takeFrame p c frame
  all_goals exact h

theorem loseLink (p : PortNo) : (s.loseLink p).Legal := by
  have hcut := h.cutPort p .targetLost
  unfold State.loseLink
  split
  iterate 3 exact (hcut.movePort ((hcut.ports p).enterFaulted .linkLost (by decide))).issuingPass
  · exact (hcut.movePort (hcut.ports p).enterDisabled).issuingPass
  all_goals exact h

/-! ### The commands of a port and the management window -/

theorem portEnable (p : PortNo) : (s.portEnable p).1.Legal := by
  unfold State.portEnable
  split
  iterate 2 exact h.modPort ((h.ports p).enterLinking _)
  all_goals exact h

theorem shutDown (p : PortNo) : (s.movePort p Port.shutDown).Legal :=
  h.movePort (Port.Legal.enterDisabled (q := (s.port p).put _) (h.ports p))

theorem portDisable (p : PortNo) : (s.portDisable p).1.Legal := by
  have hanswered := h.answerHold p .aborted
  unfold State.portDisable
  split
  iterate 2 exact h
  iterate 2 exact h.shutDown p
  · exact hanswered.shutDown p
  · exact h.movePort (h.ports p).enterDisabled
  · next hactive =>
    dsimp only
    split
    · exact hanswered.shutDown p
    · exact hanswered.modPort ((h.ports p).enterDraining hactive)

theorem portRestart (p : PortNo) : (s.portRestart p).1.Legal := by
  have hcut := h.cutPort p .aborted
  unfold State.portRestart
  split
  · exact h
  all_goals
    exact (hcut.modPort (Port.Legal.enterLinking (q := ((s.cutPort p .aborted).port p).put _) (hcut.ports p)
      _)).issuingPass

theorem writeEnable (p : PortNo) (v : Word) : (s.writeEnable p v).1.Legal := by
  unfold State.writeEnable
  split
  · exact h.portEnable p
  · exact h.portDisable p

theorem writeIdentity (off : Nat) (v : Word) : (s.writeIdentity off v).Legal := by
  unfold State.writeIdentity
  split
  · exact h.modUp_same rfl rfl
  · exact h.modDa_same rfl
  · exact h.modTb (h.tb.writeDivider v)
  · exact h.modEv _
  · exact h.modEv _
  · exact h

theorem writeWord (off : Nat) (v : Word) : (s.writeWord off v).1.Legal := by
  unfold State.writeWord
  split
  · exact h.writeIdentity off v
  split
  · dsimp only
    exact h.modMu _
  split
  · dsimp only
    split
    · exact h.writeEnable _ v
    · exact h.modPort ((h.ports _).writeConfig _ v)
  split
  · dsimp only
    refine h.modDa fun c => ?_
    dsimp only
    rw [Table.get_modify]
    split
    · exact (h.cells c).writeConfig _ v
    · exact h.cells c
  split
  · dsimp only
    exact h.modDa_same rfl
  · exact h

theorem accessWords (r : Request) : (s.accessWords r).1.Legal :=
  List.foldlRecOn (motive := fun acc : State × Status => acc.1.Legal) _ _ h fun _ hacc _ _ => hacc.writeWord _ _

theorem access (r : Request) : (s.access r).1.Legal := by
  unfold State.access
  dsimp only
  split
  · exact (h.accessWords r).issuingPass
  · exact h.accessWords r

theorem serveWrite (r : Request) : (s.serveWrite r).Legal := by
  unfold State.serveWrite
  split
  · exact h.answer _ _
  split
  · exact h.answer _ _
  split
  · exact h.answer _ _
  · exact (h.access r).answer _ _

theorem serveWriteIf (test : Request → Bool) : (s.serveWriteIf test).Legal := by
  unfold State.serveWriteIf
  split
  · exact h
  split
  · exact (h.popMu.serveWrite _).settle
  · exact h

theorem serveRead (r : Request) : (s.serveRead r).Legal := by
  unfold State.serveRead
  split
  · exact h.answer _ _
  split
  · exact h.answer _ _
  split <;> exact h.respond _

/-! ### The commands of the command word and SEGMENT-RESET -/

theorem commitAction (pair : Pair) : (s.commitAction pair).state.Legal := by
  unfold State.commitAction
  split
  · exact h
  split
  · exact h
  · exact (h.modDa (f := Da.swap) h.cells).handEvent _ _ _ _

theorem stagingCopyAction : s.stagingCopyAction.state.Legal := by
  unfold State.stagingCopyAction
  split
  · exact h
  · dsimp only
    exact h.modDa_same rfl

theorem lockAction : s.lockAction.state.Legal := by
  dsimp only [State.lockAction]
  exact h.modDa_same rfl

/-- Every cell emptied. -/
theorem emptyCells {f : Da → Da} (hf : (f s.da).cells = s.da.cells.map Cell.emptied) : (s.modDa f).Legal :=
  h.modDa fun c => by
    rw [hf, Table.get_map]
    exact Cell.emptied_legal _

theorem clearAllAction (pair : Pair) : (s.clearAllAction pair).state.Legal :=
  (h.emptyCells (f := Da.clearAll) rfl).handEvent _ _ _ _

theorem captureClearAction : s.captureClearAction.state.Legal := by
  dsimp only [State.captureClearAction]
  refine h.modDa fun c => ?_
  simp only [Da.clearCells, Table.get_imap]
  split
  · exact Cell.emptied_legal _
  · exact h.cells c

theorem counterClearAction : s.counterClearAction.state.Legal :=
  ((h.modDa (f := fun d => { d with hits := zeroHits }) h.cells).modEv _).modPorts fun _ hq => hq

theorem startReset (pair : Pair) : (s.startReset pair).Legal := by
  have hpause : (s.modUp Up.setPause).Legal :=
    h.modUp_same (by unfold Up.setPause; split <;> rfl) (by unfold Up.setPause; split <;> rfl)
  exact (hpause.answerAll _ _).modMu _

theorem trafficReset : s.trafficReset.Legal :=
  (((h.answerAll _ _).modTt fun n _ => Table.get_replicate _ _ n).modPorts
    fun _ hq => hq.trafficReset _).modMu _

theorem completeReset (pair : Pair) : (s.completeReset pair).Legal :=
  (((h.answer _ _).record _ _ _).modUp_same rfl rfl).modMu _

/-! ### The upstream link -/

theorem loseUpstream : s.loseUpstream.Legal := by
  refine ⟨fun p => ?_, by simp [Up.HelloRuns, State.loseUpstream, Up.lose], h.tb, fun n hn => ?_, h.cells⟩
  · have hget : s.loseUpstream.port p = { s.port p with slot := [] } := Table.get_map ..
    rw [hget]
    exact h.ports p
  · have hget : s.loseUpstream.entry n = if (s.entry n).state = .opened then
        { s.entry n with state := .expired, timer := (s.port (s.entry n).port).timeoutTicks } else s.entry n :=
      Table.get_map ..
    rw [hget] at hn ⊢
    split at hn
    · cases hn
    · next hother =>
      rw [if_neg hother]
      exact h.entries n hn

theorem helloFromController (identity : BitVec 4) : (s.helloFromController identity).Legal := by
  unfold State.helloFromController
  split
  · exact (h.modUp (by simp [Up.HelloRuns, Up.enterUp])).handEvent _ _ _ _
  · exact h.loseUpstream

theorem acceptOrAnswer (f : ReqFields) : (s.acceptOrAnswer f).Legal := by
  unfold State.acceptOrAnswer
  split
  · exact h.modEv _
  split
  · exact h.modEv _
  split
  · exact (h.modUp_same rfl rfl).modEv _
  split
  · exact (h.modUp_same rfl rfl).modEv _
  · exact (h.modUp_same rfl rfl).modDa h.cells

theorem takeUpFrame (frame : List Word) : (s.takeUpFrame frame).Legal := by
  unfold State.takeUpFrame
  split
  · split
    · exact (h.modUp_same (f := Up.useCredit) rfl rfl).acceptOrAnswer _
    all_goals exact h.modEv _
  · exact h.modEv _

end State.Legal

theorem Up.spend_link_hello (u : Up) (f : UpFrame) : (u.spend f).link = u.link ∧ (u.spend f).hello = u.hello := by
  cases f <;> exact ⟨rfl, rfl⟩

theorem Up.sendHead_link_hello (u : Up) : u.sendHead.link = u.link ∧ u.sendHead.hello = u.hello := by
  unfold Up.sendHead
  split
  · exact ⟨rfl, rfl⟩
  split
  · exact Up.spend_link_hello _ _
  · exact ⟨rfl, rfl⟩

theorem Up.sendMany_link_hello (n : Nat) (u : Up) :
    (Up.sendMany n u).link = u.link ∧ (Up.sendMany n u).hello = u.hello := by
  induction n generalizing u with
  | zero => exact ⟨rfl, rfl⟩
  | succ n ih =>
    rw [Up.sendMany]
    split
    · obtain ⟨hlink, hhello⟩ := u.sendHead_link_hello
      rw [← hlink, ← hhello]
      exact ih _
    · exact ⟨rfl, rfl⟩

theorem Up.takeGrant_link_hello (u : Up) (c : Option FrameClass) (count : BitVec 8) :
    (u.takeGrant c count).link = u.link ∧ (u.takeGrant c count).hello = u.hello := by
  unfold Up.takeGrant
  split <;> exact ⟨rfl, rfl⟩

/-! ### The steps -/

section
variable {s : State} (h : s.Legal)
include h

/-- A command of the command word, taken when the head carries it. -/
theorem command_legal {c : Cmd} {action : Request → CmdResult} (ha : ∀ r, (action r).state.Legal) :
    Ensures State.Legal (match s.mu.head with
      | none => .next s
      | some r => if s.headCarries c r then .next (takeCommand c r (action r)) else .next s) :=
  .served h fun r => .guarded h fun _ => (((ha r).record _ _ _).answer _ _).settle

theorem execPinReset_legal (straps : Straps) : Ensures State.Legal (execPinReset straps s) := by
  refine .next ⟨fun p => ?_, by simp [Up.HelloRuns, Up.powerOn], h.tb.pinReset _, State.powerOn_blank rfl, fun c => ?_⟩
  · simp only [State.port, Table.get_map]
    exact (h.ports p).pinReset _ _
  · simp only [Da.pinReset]
    split
    · simp only [Table.get_map]
      exact Cell.emptied_legal _
    · simp only [Table.get_replicate]
      exact fun _ => rfl

omit h in
theorem execPor_legal (straps : Straps) : Ensures State.Legal (execPor straps s) := by
  refine .next ⟨fun p => ?_, by simp [Up.HelloRuns, State.powerOn, Up.powerOn], Timebase.powerOn_legal,
    State.powerOn_blank rfl, fun c => ?_⟩
  · simp only [State.port, State.powerOn, Table.get_imap, Table.get_replicate]
    exact Port.powerOn_legal
  · simp only [State.powerOn, Da.powerOn, Table.get_replicate]
    exact fun _ => rfl

theorem execTick_legal : Ensures State.Legal (execTick s) := by
  refine .next ⟨fun p => ?_, ?_, h.tb.tick, fun n hn => ?_, h.cells⟩
  · simp only [State.port, Table.get_map]
    exact (h.ports p).tick
  · simpa [Up.HelloRuns, timerTick] using h.up
  · simp only [State.entry, Table.get_map, Entry.tick_state] at hn ⊢
    rw [Entry.tick, if_pos hn]
    exact h.entries n hn

theorem execUpstreamLinkLoss_legal (cause : LossCause) : Ensures State.Legal (execUpstreamLinkLoss cause s) := by
  cases cause with
  | down arg check => exact .guarded h fun _ => h.loseUpstream.settle
  | symbolLock => exact .guarded h fun _ => h.loseUpstream.settle
  | hello arg check => exact .guarded h fun _ => (h.helloFromController _).settle

theorem execReqFrameReceived_legal (frame : List Word) : Ensures State.Legal (execReqFrameReceived frame s) := by
  unfold execReqFrameReceived
  split
  · exact .next h
  · exact .next (h.takeUpFrame frame).settle

theorem execDecode_legal : Ensures State.Legal (execDecode s) := by
  cases hintake : s.da.intake with
  | nil =>
    rw [execDecode, hintake]
    exact .next h
  | cons r rest =>
    rw [execDecode_cons hintake]
    have hoff := (h.modDa (f := fun d => { d with intake := rest }) h.cells).handOff r (s.verdictOf r)
    exact .next (h.withDecode hoff rest r).settle

theorem execDownstreamFrame_legal (p : PortNo) (frame : List Word) :
    Ensures State.Legal (execDownstreamFrame p frame s) := by
  have hbad : (s.modPort p fun q => { q with bad := satInc q.bad }).Legal := h.modPort (h.ports p)
  refine .branch (fun _ => .branch (fun _ => ?_) fun _ => .next hbad) fun _ => .next h
  split
  · exact .next (h.takeFarFrame p .rsp frame).settle
  · exact .next (h.takeFarFrame p .ntf frame).settle
  all_goals exact .next hbad

theorem State.helloFromTarget_legal (p : PortNo) : Ensures State.Legal (s.helloFromTarget p) := by
  unfold State.helloFromTarget
  split
  · have hactive : ((s.port p).enterActive.put (grantSymbol .rsp 255#8)).Legal := (h.ports p).enterActive
    exact .next (h.movePort (f := fun q => q.enterActive.put (grantSymbol .rsp 255#8)) hactive).issuingPass.settle
  iterate 4 exact .next (h.loseLink p).settle
  all_goals exact .next h

theorem execDownstreamLinkLoss_legal (p : PortNo) (cause : LossCause) :
    Ensures State.Legal (execDownstreamLinkLoss p cause s) := by
  cases cause with
  | down arg check => exact .guarded h fun _ => (h.loseLink p).settle
  | symbolLock => exact .guarded h fun _ => (h.loseLink p).settle
  | hello arg check => exact .branch (fun _ => State.helloFromTarget_legal h p) fun _ => .next h

theorem execReadyOrWakeReceived_legal (p : PortNo) (sym : WakeSymbol) (arg : SymArg) (check : SymCheck) :
    Ensures State.Legal (execReadyOrWakeReceived p sym arg check s) := by
  refine .branch (fun _ => ?_) fun _ => .next h
  split
  iterate 2 exact .next (h.movePort (h.ports p).enterActive).issuingPass.settle
  all_goals exact .next h

theorem execIdleTimerExpiry_legal (p : PortNo) : Ensures State.Legal (execIdleTimerExpiry p s) := by
  refine .guarded h fun ⟨_, hidle⟩ => ?_
  simp only [State.idleHolds, Bool.and_eq_true, decide_eq_true_eq] at hidle
  obtain ⟨⟨⟨hactive, -⟩, -⟩, -⟩ := hidle
  exact (h.modPort ((h.ports p).enterParked hactive)).settle

theorem execUnknownCommand_legal : Ensures State.Legal (execUnknownCommand s) := by
  refine .served h fun r => ?_
  split
  · exact .next h
  split
  · exact .next h
  · exact .next ((h.popMu.record _ _ _).answer _ _).settle

theorem execTrafficPhase_legal : Ensures State.Legal (execTrafficPhase s) := by
  unfold execTrafficPhase
  split
  · exact .next (h.trafficReset.modMu _).settle
  all_goals exact .next h

theorem execCapturePhase_legal : Ensures State.Legal (execCapturePhase s) := by
  unfold execCapturePhase
  split
  · exact .next ((h.emptyCells (f := fun d => { d with cells := d.cells.map Cell.emptied }) rfl).modMu _)
  all_goals exact .next h

theorem execSegmentResetCompletion_legal : Ensures State.Legal (execSegmentResetCompletion s) := by
  unfold execSegmentResetCompletion
  split
  · exact .next (h.completeReset _).settle
  all_goals exact .next h

/-- Every command keeps the registers legal. -/
theorem exec_legal (c : Instr) : Ensures State.Legal (exec c s) := by
  cases c with
  | por straps => exact execPor_legal straps
  | pinReset straps => exact execPinReset_legal h straps
  | tick => exact execTick_legal h
  -- the upstream link and the egress queue
  | upstreamHelloTimerExpiry =>
    exact .guarded h fun ⟨hlinking, _⟩ => h.modUp (by simp [Up.HelloRuns, Up.put, hlinking])
  | upstreamHello arg check => exact .guarded h fun _ => (h.helloFromController _).settle
  | upstreamLinkLoss cause => exact execUpstreamLinkLoss_legal h cause
  | reqFrameReceived frame => exact execReqFrameReceived_legal h frame
  | upstreamRspNtfFrame frame => exact execReqFrameReceived_legal h frame
  | upstreamGrant arg check =>
    have hmany := Up.sendMany_link_hello s.up.egress.length (s.up.takeGrant (grantClass arg) (grantCount arg))
    have hgrant := s.up.takeGrant_link_hello (grantClass arg) (grantCount arg)
    exact .guarded h fun _ => (h.modUp_same (hmany.1.trans hgrant.1) (hmany.2.trans hgrant.2)).settle
  | upstreamPark arg check => exact .guarded h fun _ => (h.modUp_same rfl rfl).settle
  | upstreamWake arg check => exact .guarded h fun _ => (h.modUp_same rfl rfl).settle
  | egressSend =>
    exact .guarded h fun _ => (h.modUp_same s.up.sendHead_link_hello.1 s.up.sendHead_link_hello.2).settle
  | notificationClaim p => exact .guarded h fun _ => (h.takeClaim _).settle
  | eventClaim => exact .guarded h fun _ => (h.takeClaim _).settle
  | decode => exact execDecode_legal h
  -- the ports and the transaction table
  | downstreamFrame p frame => exact execDownstreamFrame_legal h p frame
  | downstreamGrantReq p arg check =>
    exact .guarded h fun _ => h.modPort (Port.Legal.sendMany
      (q := { s.port p with credit := Credit.ofCount (grantCount arg) }) (h.ports p) _)
  | portSend p => exact .next (h.modPort (h.ports p).sendHead)
  | entryTimeout n =>
    exact .guarded h fun _ => ((((h.answer _ _).expireEntry n).withdraw _ n).handEvent _ _ _ _).settle
  | quarantineEnd n => exact .guarded h fun _ => ((h.freeEntry n).issuingPass.finishDrain _).settle
  | portHelloTimerExpiry p =>
    exact .guarded h fun ⟨hlinking, _⟩ =>
      h.modPort (Port.Legal.restartHello (q := (s.port p).put _) (h.ports p) hlinking _)
  | portHelloReceived p arg check => exact .branch (fun _ => State.helloFromTarget_legal h p) fun _ => .next h
  | linkTimerExpiry p => exact .guarded h fun _ => (h.movePort ((h.ports p).enterFaulted .linkTimeout (by decide))).settle
  | downstreamLinkLoss p cause => exact execDownstreamLinkLoss_legal h p cause
  | idleTimerExpiry p => exact execIdleTimerExpiry_legal h p
  | readyOrWakeReceived p sym arg check => exact execReadyOrWakeReceived_legal h p sym arg check
  | wakeTimerExpiry p =>
    have hanswered := h.answerHold p .targetLost
    exact .guarded h fun _ => (hanswered.movePort ((hanswered.ports p).enterFaulted .wakeTimeout (by decide))).settle
  -- the accesses of MU
  | managementRead => exact .served h fun r => .guarded h fun _ => (h.popMu.serveRead r).settle
  | managementWrite => exact .next (h.serveWriteIf _)
  | stagingWrite => exact .next (h.serveWriteIf _)
  | portConfigurationWrite => exact .next (h.serveWriteIf _)
  | eventOverflowClear => exact .next (h.serveWriteIf _)
  -- the commands of the command word
  | commit => exact command_legal h fun r => h.popMu.commitAction r.pair
  | stagingCopy => exact command_legal h fun _ => h.popMu.stagingCopyAction
  | lock => exact command_legal h fun _ => h.popMu.lockAction
  | clearAll => exact command_legal h fun r => h.popMu.clearAllAction r.pair
  | portEnable =>
    exact .served h fun r => .branch
      (fun _ => .next (((((h.popMu.portEnable _)).record _ _ _).answer _ _).settle)) fun _ => .next (h.serveWriteIf _)
  | portDisable =>
    exact .served h fun r => .branch
      (fun _ => .next (((((h.popMu.portDisable _)).record _ _ _).answer _ _).settle)) fun _ => .next (h.serveWriteIf _)
  | portRestart => exact command_legal h fun _ => h.popMu.portRestart _
  | captureClear => exact command_legal h fun _ => h.popMu.captureClearAction
  | counterClear => exact command_legal h fun _ => h.popMu.counterClearAction
  | unknownCommand => exact execUnknownCommand_legal h
  | segmentReset => exact .served h fun r => .guarded h fun _ => (h.popMu.startReset r.pair).settle
  | trafficPhase => exact execTrafficPhase_legal h
  | capturePhase => exact execCapturePhase_legal h
  | segmentResetCompletion => exact execSegmentResetCompletion_legal h

end

/-- Settles O59, by the rule of each command. -/
theorem registersStayLegal : Obligations.RegistersStayLegal := fun s t htimers hup hconfig hentries hcells hstep => by
  have h : s.Legal := State.legal_iff.2 ⟨htimers, hup, hconfig, hentries, hcells⟩
  refine State.legal_iff.1 (Ensures.step (P := State.Legal) (h.modTb h.tb.period) (fun c rest => ?_) t hstep)
  exact exec_legal (s := { s with pending := rest }) ⟨h.ports, h.up, h.tb, h.entries, h.cells⟩ c

end Sys2Proof.Machine
end

section
/-! PROOF. The law of held only when waiting, and the depths of the queues (R73, R149, R169). The law with its second half
left open holds at every point of a command; the issuing pass closes it again. -/
namespace Sys2Proof.Machine

/-! ### Rows counted -/

/-- One row replaced: the count loses the row left and gains the row set. -/
theorem Table.countP_set {α : Type} {n : Nat} (t : Table α n) (f : α → Bool) (i : Fin n) (a : α) :
    (t.set i a).rows.countP f + (f (t.get i)).toNat = t.rows.countP f + (f a).toNat := by
  have hi : i.val < t.rows.length := by rw [t.size]; exact i.isLt
  have hset : (t.set i a).rows.countP f
      = t.rows.countP f - (if f t.rows[i.val] = true then 1 else 0) + if f a = true then 1 else 0 :=
    List.countP_set hi
  have hpos : f t.rows[i.val] = true → 0 < t.rows.countP f := fun h =>
    List.countP_pos_iff.2 ⟨_, List.getElem_mem hi, h⟩
  rw [hset, Table.get]
  cases hold : f t.rows[i.val] <;> cases f a <;> simp_all

/-- A FREE entry that is filled raises no count but its port's. -/
theorem Tt.count_set_of_free {t : Tt} {n : EntryNo} (e : Entry) (p : PortNo) (h : (t.entries.get n).state = .free) :
    t.count p ≤ ({ t with entries := t.entries.set n e } : Tt).count p := by
  have hset := Table.countP_set t.entries (fun e => e.names p) n e
  have hfree : (t.entries.get n).names p = false := by simp [Entry.names, h]
  simp only [hfree, Bool.toNat_false] at hset
  simp only [Tt.count]
  omega

/-- Entries that name the same ports are counted alike. -/
theorem Tt.count_congr {t u : Tt} (h : ∀ n p, (u.entries.get n).names p = (t.entries.get n).names p) (p : PortNo) :
    u.count p = t.count p := by
  have hrows : ∀ v : Tt, v.count p = ((List.finRange 32).map v.entries.get).countP (fun e => e.names p) := by
    intro v
    have heq : (List.finRange 32).map v.entries.get = v.entries.rows := by
      refine List.ext_getElem (by simp [v.entries.size]) fun i hi hj => ?_
      simp [Table.get]
    rw [heq, Tt.count]
  simp only [hrows, List.countP_map]
  exact List.countP_congr fun n _ => by simp [h]

/-- Entries FREE alike leave the same lowest FREE entry. -/
theorem Tt.lowestFree_congr {t u : Tt} (h : ∀ n, (u.entries.get n).state = .free ↔ (t.entries.get n).state = .free) :
    u.lowestFree = t.lowestFree := by
  simp [Tt.lowestFree, h]

/-! ### What a hold queue, a limit and a name read -/

theorem State.answerHold_hold_self (s : State) (p : PortNo) (status : Status) :
    (s.answerHold p status).hold p = [] := Table.get_set_self ..

theorem State.cutPort_hold_self (s : State) (p : PortNo) (status : Status) :
    (s.cutPort p status).hold p = [] := Table.get_set_self ..

theorem Port.takeNotification_limit (q : Port) (n : Option Ntf) :
    (q.takeNotification n).limit = q.limit := by
  unfold Port.takeNotification
  dsimp only
  split
  · rfl
  split
  · rfl
  split
  · rfl
  split <;> rfl

theorem Port.sendHead_limit (q : Port) : q.sendHead.limit = q.limit := by
  unfold Port.sendHead
  split
  · rfl
  · split <;> rfl

theorem Port.sendMany_limit (n : Nat) (q : Port) : (Port.sendMany n q).limit = q.limit := by
  induction n generalizing q with
  | zero => rfl
  | succ n ih =>
    rw [Port.sendMany]
    split
    · rw [ih, q.sendHead_limit]
    · rfl

theorem Entry.tick_names (e : Entry) (p : PortNo) : e.tick.names p = e.names p := by
  simp [Entry.names, Entry.tick_state, Entry.tick_port]

/-! ### The law -/

/-- The queues keep their depths and a request is held at a WAKING or ACTIVE port alone; when `strict`, at an ACTIVE one
only while the count has reached the limit or no entry is FREE (R73, R149, R169). -/
structure State.Held (strict : Prop) (s : State) : Prop where
  events : s.ev.queue.length ≤ 8
  requests : s.mu.queue.length ≤ 4
  depth : ∀ p, (s.hold p).length ≤ 4
  waiting : ∀ p, s.hold p ≠ [] → (s.port p).state = .waking
    ∨ ((s.port p).state = .active ∧ (strict → (s.port p).limit.toNat ≤ s.tt.count p ∨ s.tt.lowestFree = none))

theorem State.held_iff {s : State} : s.Held True ↔ s.HeldOnlyWhenWaiting ∧ s.QueuesBounded := by
  constructor
  · intro h
    exact ⟨by simpa [State.HeldOnlyWhenWaiting] using h.waiting, h.events, h.requests, h.depth⟩
  · rintro ⟨hwaiting, hevents, hrequests, hdepth⟩
    exact ⟨hevents, hrequests, hdepth, by simpa [State.HeldOnlyWhenWaiting] using hwaiting⟩

/-- With every hold queue empty the law says nothing. -/
theorem State.held_of_empty {k : Prop} {s : State} (hevents : s.ev.queue.length ≤ 8) (hrequests : s.mu.queue.length ≤ 4)
    (hholds : s.tt.holds = Table.replicate 4 []) : s.Held k := by
  have hnil : ∀ p, s.hold p = [] := fun p => by simp [State.hold, hholds]
  exact ⟨hevents, hrequests, fun p => by simp [hnil p], fun p hp => absurd (hnil p) hp⟩

namespace State.Held
variable {k : Prop} {s t : State}

/-- The law with its second half left open. -/
theorem relax (h : s.Held k) : s.Held False := ⟨h.events, h.requests, h.depth, fun p hp =>
  (h.waiting p hp).imp_right fun hactive => ⟨hactive.1, False.elim⟩⟩

/-- The whole law serves for the part of it. -/
theorem weaken (h : s.Held True) : s.Held k := ⟨h.events, h.requests, h.depth, fun p hp =>
  (h.waiting p hp).imp_right fun hactive => ⟨hactive.1, fun _ => hactive.2 trivial⟩⟩

section
variable (h : s.Held k)
include h

theorem hold_eq_nil {p : PortNo} (hwaking : (s.port p).state ≠ .waking) (hactive : (s.port p).state ≠ .active) :
    s.hold p = [] := by
  by_contra hp
  rcases h.waiting p hp with hstate | ⟨hstate, -⟩
  · exact hwaking hstate
  · exact hactive hstate

/-! What reaches neither the hold queues, the entries nor the states and limits of the ports. -/

theorem modUp (f : Up → Up) : (s.modUp f).Held k := ⟨h.events, h.requests, h.depth, h.waiting⟩
theorem modDa (f : Da → Da) : (s.modDa f).Held k := ⟨h.events, h.requests, h.depth, h.waiting⟩
theorem modTb (f : Timebase → Timebase) : (s.modTb f).Held k := ⟨h.events, h.requests, h.depth, h.waiting⟩
theorem modEv {f : Events → Events} (hf : (f s.ev).queue.length ≤ 8) : (s.modEv f).Held k :=
  ⟨hf, h.requests, h.depth, h.waiting⟩
theorem modMu {f : Mu → Mu} (hf : (f s.mu).queue.length ≤ 4) : (s.modMu f).Held k :=
  ⟨h.events, hf, h.depth, h.waiting⟩
theorem respond (r : Rsp) : (s.respond r).Held k := h.modUp _
theorem answer (pair : Pair) (status : Status) : (s.answer pair status).Held k := h.respond _
theorem answerAll (pairs : List Pair) (status : Status) : (s.answerAll pairs status).Held k := h.modUp _
theorem handEvent (kind : EventKind) (locus : Locus) (pair : Option Pair) (detail : Word) :
    (s.handEvent kind locus pair detail).Held k := h.modEv (Events.hand_length _ h.events)
theorem popMu : s.popMu.Held k := h.modMu (by have := h.requests; simp only [List.length_tail]; omega)
theorem record (command : BitVec 8) (status : Status) (detail : Word) : (s.record command status detail).Held k :=
  h.modMu h.requests

/-! What changes a port. -/

theorem of_ports (hev : t.ev = s.ev) (hmu : t.mu = s.mu) (htt : t.tt = s.tt)
    (hstate : ∀ p, (t.port p).state = (s.port p).state) (hlimit : ∀ p, (t.port p).limit = (s.port p).limit) :
    t.Held k := by
  refine ⟨by rw [hev]; exact h.events, by rw [hmu]; exact h.requests, fun p => ?_, fun p hp => ?_⟩
  · rw [State.hold, htt]
    exact h.depth p
  · rw [State.hold, htt] at hp
    rw [hstate, hlimit, htt]
    exact h.waiting p hp

theorem modPort_same {p : PortNo} {f : Port → Port} (hstate : (f (s.port p)).state = (s.port p).state)
    (hlimit : (f (s.port p)).limit = (s.port p).limit) : (s.modPort p f).Held k := by
  refine h.of_ports rfl rfl rfl (fun q => ?_) fun q => ?_
  all_goals
    rw [State.modPort_port]
    split
    · next heq => subst heq; assumption
    · rfl

/-- A port without held requests may change at will. -/
theorem modPort_empty {p : PortNo} (f : Port → Port) (hp : s.hold p = []) : (s.modPort p f).Held k := by
  refine ⟨h.events, h.requests, h.depth, fun q hq => ?_⟩
  rw [State.modPort_hold] at hq
  rw [State.modPort_port]
  split
  · next heq => exact absurd (heq ▸ hp) hq
  · exact h.waiting q hq

/-- A port may stay ACTIVE or go there, with the second half of the law left open. -/
theorem modPort_active {p : PortNo} {f : Port → Port} (hf : (f (s.port p)).state = .active) :
    (s.modPort p f).Held False := by
  refine ⟨h.events, h.requests, h.depth, fun q hq => ?_⟩
  rw [State.modPort_port]
  split
  · next heq => exact .inr ⟨heq ▸ hf, False.elim⟩
  · exact h.relax.waiting q hq

/-- A limit may change where the second half of the law is left open. -/
theorem modPort_state {p : PortNo} {f : Port → Port} (hf : (f (s.port p)).state = (s.port p).state) :
    (s.modPort p f).Held False := by
  refine ⟨h.events, h.requests, h.depth, fun q hq => ?_⟩
  have hq' := h.relax.waiting q hq
  rw [State.modPort_port]
  split
  · next heq =>
    subst heq
    rw [hf]
    exact hq'.imp_right fun hactive => ⟨hactive.1, False.elim⟩
  · exact hq'

theorem movePort_empty {p : PortNo} (f : Port → Port) (hp : s.hold p = []) : (s.movePort p f).Held k :=
  (h.modPort_empty f hp).handEvent _ _ _ _

theorem movePort_active {p : PortNo} {f : Port → Port} (hf : (f (s.port p)).state = .active) :
    (s.movePort p f).Held False := (h.modPort_active hf).handEvent _ _ _ _

theorem withdraw (p : PortNo) (n : EntryNo) : (s.withdraw p n).Held k := h.modPort_same rfl rfl

theorem modPorts_same {f : Port → Port} (hstate : ∀ q, (f q).state = q.state) (hlimit : ∀ q, (f q).limit = q.limit) :
    (s.modPorts f).Held k :=
  h.of_ports rfl rfl rfl (fun p => by rw [State.modPorts_port, hstate]) fun p => by rw [State.modPorts_port, hlimit]

/-- A drain ends at a DRAINING port, which holds nothing. -/
theorem finishDrain (p : PortNo) : (s.finishDrain p).Held k := by
  unfold State.finishDrain
  split
  · next hdone =>
    obtain ⟨hdraining, -⟩ := hdone
    exact h.movePort_empty _ (h.hold_eq_nil (by simp [hdraining]) (by simp [hdraining]))
  · exact h

/-! What changes the entries and the hold queues. -/

/-- Entries changed alone, with the second half of the law left open. -/
theorem setEntries (es : Table Entry 32) : (s.modTt fun t => { t with entries := es }).Held False :=
  ⟨h.events, h.requests, h.depth, fun p hp =>
    (h.waiting p hp).imp_right fun hactive => ⟨hactive.1, False.elim⟩⟩

theorem freeEntry (n : EntryNo) : (s.freeEntry n).Held False := h.setEntries _

/-- Entries that name the same ports and are FREE alike leave the law as it stood. -/
theorem of_entries (hev : t.ev = s.ev) (hmu : t.mu = s.mu) (hholds : t.tt.holds = s.tt.holds)
    (hnames : ∀ n p, (t.entry n).names p = (s.entry n).names p)
    (hfree : ∀ n, (t.entry n).state = .free ↔ (s.entry n).state = .free)
    (hstate : ∀ p, (t.port p).state = (s.port p).state) (hlimit : ∀ p, (t.port p).limit = (s.port p).limit) :
    t.Held k := by
  refine ⟨by rw [hev]; exact h.events, by rw [hmu]; exact h.requests, fun p => ?_, fun p hp => ?_⟩
  · rw [State.hold, hholds]
    exact h.depth p
  · rw [State.hold, hholds] at hp
    rw [hstate, hlimit, Tt.count_congr hnames p, Tt.lowestFree_congr hfree]
    exact h.waiting p hp

/-- An entry that becomes EXPIRED is counted as before. -/
theorem expireEntry {n : EntryNo} (hn : (s.entry n).state ≠ .free) : (s.expireEntry n).Held k := by
  have hget : ∀ m, (s.expireEntry n).entry m = if n = m then
      { s.entry m with state := .expired, timer := (s.port (s.entry m).port).timeoutTicks } else s.entry m :=
    fun m => Table.get_modify ..
  refine h.of_entries rfl rfl rfl (fun m p => ?_) (fun m => ?_) (fun _ => rfl) fun _ => rfl
  all_goals
    rw [hget]
    split
    · next heq => subst heq; simp [Entry.names, hn]
    · rfl

/-- Hold queue `p` shortened, or left as it was. -/
theorem setHold {p : PortNo} {rs : List Request} (hlen : rs.length ≤ 4) (hrs : rs ≠ [] → s.hold p ≠ []) :
    (s.modTt fun t => { t with holds := t.holds.set p rs }).Held k := by
  have hget : ∀ q, (s.modTt fun t => { t with holds := t.holds.set p rs }).hold q = if p = q then rs else s.hold q :=
    fun q => Table.get_set ..
  refine ⟨h.events, h.requests, fun q => ?_, fun q hq => h.waiting q ?_⟩
  · rw [hget]
    split
    · exact hlen
    · exact h.depth q
  · rw [hget] at hq
    split at hq
    · next heq => exact heq ▸ hrs hq
    · exact hq

theorem answerHold (p : PortNo) (status : Status) : (s.answerHold p status).Held k :=
  (h.answerAll _ _).setHold (by simp) (absurd rfl)

/-- A FREE entry that is filled leaves every count at its limit and no entry FREE that was not. -/
theorem issueInto {n : EntryNo} (p : PortNo) (r : Request) (hn : s.tt.lowestFree = some n) : (s.issueInto n p r).Held k := by
  have hfree : (s.tt.entries.get n).state = .free := (Tt.lowestFree_eq_some.1 hn).1
  have hset : (s.modTt fun t => { t with entries := t.entries.set n (s.issuedEntry p r) }).Held k := by
    refine ⟨h.events, h.requests, h.depth, fun q hq => (h.waiting q hq).imp_right fun hactive =>
      ⟨hactive.1, fun hk => ?_⟩⟩
    rcases hactive.2 hk with hlimit | hnone
    · exact .inl (hlimit.trans (Tt.count_set_of_free _ q hfree))
    · rw [hn] at hnone
      cases hnone
  exact hset.modPort_same rfl rfl

theorem issued {n : EntryNo} {p : PortNo} {r : Request} {rest : List Request} (hn : s.tt.lowestFree = some n)
    (hr : s.hold p = r :: rest) : (s.issued n p r rest).Held k := by
  have hdepth := h.depth p
  rw [hr, List.length_cons] at hdepth
  have hshort := (h.setHold (p := p) (rs := rest) (by omega) fun _ => by simp [hr])
  have hmoved : (s.modTt fun t => { t with holds := t.holds.set p rest, rr := p + 1 }).Held k :=
    ⟨hshort.events, hshort.requests, hshort.depth, hshort.waiting⟩
  exact hmoved.issueInto p r hn

/-- The issuing pass ends where the whole law holds (R77). -/
theorem issuingPass : s.issuingPass.Held True := by
  have hpass : s.issuingPass.Held k :=
    State.passRounds_induction h fun _ _ _ _ _ ht _ hn hr => ht.issued hn hr
  refine ⟨hpass.events, hpass.requests, hpass.depth, fun p hp => (hpass.waiting p hp).imp_right fun hactive =>
    ⟨hactive.1, fun _ => ?_⟩⟩
  rcases State.passRounds_ends s.tt.freeCount_le with hnone | hnone
  · have hstay := State.arbiterChoice_eq_none.1 hnone p
    refine .inl (Nat.le_of_not_lt fun hlt => ?_)
    have heligible : s.issuingPass.eligible p = true := State.eligible_iff.2 ⟨hactive.1, hp, hlt⟩
    exact absurd (heligible.symm.trans hstay) (by decide)
  · exact .inr hnone

/-- A port cut holds nothing and has its entries freed. -/
theorem cutPort (p : PortNo) (status : Status) : (s.cutPort p status).Held False :=
  (((h.answerAll (s.tt.openPairs fun e => e.port = p) status).setEntries _).answerHold p status).modPort_same rfl rfl

/-! The claims and the end of a happening. -/

theorem takeClaim (c : Claimant) : (s.takeClaim c).Held k := by
  cases c with
  | port p =>
    simp only [State.takeClaim]
    split
    · exact h
    · exact (h.modUp _).modPort_same rfl rfl
  | events =>
    simp only [State.takeClaim]
    split
    · exact h
    · next hqueue =>
      have hevents := h.events
      rw [hqueue, List.length_cons] at hevents
      exact (h.modUp _).modEv (by dsimp only; omega)

theorem settle : s.settle.Held k := by
  have hcloses := s.settle_closes
  obtain ⟨j, hqueue, -, -⟩ := hcloses.records
  have hsame : ({ s.settle with ev := s.ev } : State).Held k :=
    h.of_ports rfl hcloses.mu hcloses.tt (fun p => (congrArg Port.state (hcloses.port p) :))
      fun p => (congrArg Port.limit (hcloses.port p) :)
  refine ⟨?_, hsame.requests, hsame.depth, hsame.waiting⟩
  have hevents := h.events
  rw [hqueue, List.length_drop]
  omega

/-! ### Decoded requests and what a target sends -/

/-- A request joins a hold queue that has room, at a port where the law lets it wait. -/
theorem joinHold {p : PortNo} (r : Request) (hdepth : (s.hold p).length < 4)
    (hp : (s.port p).state = .waking
      ∨ ((s.port p).state = .active ∧ (k → (s.port p).limit.toNat ≤ s.tt.count p ∨ s.tt.lowestFree = none))) :
    (s.joinHold p r).Held k := by
  have hget : ∀ q, (s.joinHold p r).hold q = if p = q then s.hold q ++ [r] else s.hold q :=
    fun q => Table.get_modify ..
  refine ⟨h.events, h.requests, fun q => ?_, fun q hq => ?_⟩
  · rw [hget]
    split
    · next heq => subst heq; simp; omega
    · exact h.depth q
  · rw [hget] at hq
    split at hq
    · next heq => exact heq ▸ hp
    · exact h.waiting q hq

theorem holdOrBusy {p : PortNo} (r : Request)
    (hp : (s.port p).state = .waking
      ∨ ((s.port p).state = .active ∧ (k → (s.port p).limit.toNat ≤ s.tt.count p ∨ s.tt.lowestFree = none))) :
    (s.holdOrBusy p r).Held k := by
  unfold State.holdOrBusy
  split
  · next hdepth => exact h.joinHold r hdepth hp
  · exact h.answer _ _

/-- A PARKED port holds nothing, so the request that wakes it is the only one held (R104). -/
theorem joinHold_enterWaking {p : PortNo} (r : Request) (hparked : (s.port p).state = .parked) :
    ((s.joinHold p r).modPort p Port.enterWaking).Held k := by
  have hnil : s.hold p = [] := h.hold_eq_nil (by simp [hparked]) (by simp [hparked])
  have hwoken : (s.modPort p Port.enterWaking).Held k := h.modPort_empty _ hnil
  exact hwoken.joinHold r (by simp [hnil]) (.inl (by simp [Port.enterWaking]))

/-- An ACTIVE port that does not issue at once has requests held already, or no room under its limit, or no FREE entry. -/
theorem takeDecoded (p : PortNo) (r : Request) : (s.takeDecoded p r).Held k := by
  unfold State.takeDecoded
  split
  iterate 4 exact h.answer _ _
  · next hparked => exact h.joinHold_enterWaking r hparked
  · next hwaking => exact h.holdOrBusy r (.inl hwaking)
  · next hactive =>
    split
    · next n hn =>
      split
      · exact h.issueInto p r hn
      · next hissues =>
        refine h.holdOrBusy r (.inr ⟨hactive, fun hk => ?_⟩)
        by_cases hnil : s.hold p = []
        · refine .inl (Nat.le_of_not_lt fun hlt => hissues ?_)
          simp [hnil, State.belowLimit, hlt]
        · rcases h.waiting p hnil with hwaking | hwaits
          · rw [hactive] at hwaking
            cases hwaking
          · exact hwaits.2 hk
    · next hnone => exact h.holdOrBusy r (.inr ⟨hactive, fun _ => .inr hnone⟩)

theorem takeMgmt (r : Request) : (s.takeMgmt r).Held k := by
  unfold State.takeMgmt
  split
  · exact (h.answer _ _).modMu h.requests
  split
  · next hroom =>
    refine h.modMu ?_
    simp only [Config.muPlaces] at hroom
    simp only [List.length_append, List.length_cons, List.length_nil]
    omega
  · exact h.answer _ _

theorem handOff (r : Request) (v : Verdict) : (s.handOff r v).Held k := by
  cases v with
  | toPort p addr => exact h.takeDecoded p _
  | toMgmt => exact h.takeMgmt r
  | refuse status => exact h.answer _ _

theorem takeAnswer (p : PortNo) (n : EntryNo) (r : TargetRsp) : (s.takeAnswer p n r).Held True :=
  ((((h.respond _).freeEntry n).withdraw p n).issuingPass).finishDrain p

theorem takeLate (p : PortNo) (n : EntryNo) (r : TargetRsp) : (s.takeLate p n r).Held True :=
  have hcounted := (h.freeEntry n).modPort_same (p := p) (f := fun q => { q with late := satInc q.late }) rfl rfl
  (hcounted.handEvent _ _ _ _).issuingPass.finishDrain p

theorem takeStray (p : PortNo) (tag : BitVec 6) : (s.takeStray p tag).Held k :=
  have hcounted := h.modPort_same (p := p) (f := fun q => { q with stray := satInc q.stray }) rfl rfl
  hcounted.handEvent _ _ _ _

theorem matchResponse (p : PortNo) (r : TargetRsp) : (s.matchResponse p r).Held k := by
  unfold State.matchResponse
  split
  · dsimp only
    split
    · split
      · exact (h.takeAnswer p _ r).weaken
      · exact (h.takeLate p _ r).weaken
      · exact h.takeStray p r.tag
    · exact h.takeStray p r.tag
  · exact h.takeStray p r.tag

theorem takeFrame (p : PortNo) (c : FrameClass) (frame : List Word) : (s.takeFrame p c frame).Held k := by
  cases c with
  | rsp => exact h.matchResponse p _
  | ntf => exact h.modPort_same (Port.takeNotification_state _ _) (Port.takeNotification_limit _ _)
  | req => exact h

theorem loseLink (p : PortNo) : (s.loseLink p).Held k := by
  have hcut := h.cutPort p .targetLost
  unfold State.loseLink
  split
  iterate 4 exact (hcut.movePort_empty _ (s.cutPort_hold_self p _)).issuingPass.weaken
  all_goals exact h

/-! ### The commands of a port -/

theorem portEnable (p : PortNo) : (s.portEnable p).1.Held k := by
  unfold State.portEnable
  split
  · next hdisabled => exact h.modPort_empty _ (h.hold_eq_nil (by simp [hdisabled]) (by simp [hdisabled]))
  · next hfaulted => exact h.modPort_empty _ (h.hold_eq_nil (by simp [hfaulted]) (by simp [hfaulted]))
  all_goals exact h

theorem portDisable (p : PortNo) : (s.portDisable p).1.Held k := by
  have hempty := s.answerHold_hold_self p .aborted
  have hanswered := h.answerHold p .aborted
  unfold State.portDisable
  split
  iterate 2 exact h
  · next hlinking => exact h.movePort_empty _ (h.hold_eq_nil (by simp [hlinking]) (by simp [hlinking]))
  · next hparked => exact h.movePort_empty _ (h.hold_eq_nil (by simp [hparked]) (by simp [hparked]))
  · exact hanswered.movePort_empty _ hempty
  · next hfaulted => exact h.movePort_empty _ (h.hold_eq_nil (by simp [hfaulted]) (by simp [hfaulted]))
  · dsimp only
    split
    · exact hanswered.movePort_empty _ hempty
    · exact hanswered.modPort_empty _ hempty

theorem portRestart (p : PortNo) : (s.portRestart p).1.Held k := by
  have hcut := h.cutPort p .aborted
  unfold State.portRestart
  split
  · exact h
  all_goals exact (hcut.modPort_empty _ (s.cutPort_hold_self p _)).issuingPass.weaken

theorem writeEnable (p : PortNo) (v : Word) : (s.writeEnable p v).1.Held k := by
  unfold State.writeEnable
  split
  · exact h.portEnable p
  · exact h.portDisable p

theorem writeIdentity (off : Nat) (v : Word) : (s.writeIdentity off v).Held k := by
  unfold State.writeIdentity
  split
  · exact h.modUp _
  · exact h.modDa _
  · exact h.modTb _
  · exact h.modEv h.events
  · exact h.modEv h.events
  · exact h

/-- A written limit may leave the second half of the law open. -/
theorem writeWord (off : Nat) (v : Word) : (s.writeWord off v).1.Held False := by
  have hopen := h.relax
  unfold State.writeWord
  split
  · exact hopen.writeIdentity off v
  split
  · dsimp only
    exact hopen.modMu h.requests
  split
  · dsimp only
    split
    · exact hopen.writeEnable _ v
    · exact h.modPort_state (Port.writeConfig_state _ _ _)
  split
  · dsimp only
    exact hopen.modDa _
  split
  · dsimp only
    exact hopen.modDa _
  · exact hopen

end

end State.Held

/-! ### An access: requests held before it, under the same entries -/

/-- The entries stand, and a port that holds requests held the same ones in the same state before. -/
structure State.HeldFrom (s t : State) : Prop where
  entries : t.tt.entries = s.tt.entries
  holds : ∀ p, t.hold p ≠ [] → t.hold p = s.hold p ∧ (t.port p).state = (s.port p).state

namespace State.HeldFrom
variable {k : Prop} {s t u : State}

theorem same (htt : t.tt = s.tt) (hstate : ∀ p, (t.port p).state = (s.port p).state) : State.HeldFrom s t :=
  ⟨by rw [htt], fun p _ => ⟨by rw [State.hold, State.hold, htt], hstate p⟩⟩

theorem modDa (f : Da → Da) : State.HeldFrom s (s.modDa f) := .same rfl fun _ => rfl

theorem trans (h : State.HeldFrom s t) (h' : State.HeldFrom t u) : State.HeldFrom s u where
  entries := h'.entries.trans h.entries
  holds p hp := by
    obtain ⟨hhold, hstate⟩ := h'.holds p hp
    obtain ⟨hhold', hstate'⟩ := h.holds p (hhold ▸ hp)
    exact ⟨hhold.trans hhold', hstate.trans hstate'⟩

theorem modPort_same {p : PortNo} {f : Port → Port} (hf : ∀ q, (f q).state = q.state) :
    State.HeldFrom s (s.modPort p f) := by
  refine .same rfl fun q => ?_
  rw [State.modPort_port]
  split
  · exact hf _
  · rfl

theorem modPort_empty {p : PortNo} (f : Port → Port) (hp : s.hold p = []) : State.HeldFrom s (s.modPort p f) := by
  refine ⟨rfl, fun q hq => ⟨rfl, ?_⟩⟩
  rw [State.modPort_port]
  split
  · next heq => exact absurd (heq ▸ hp) hq
  · rfl

theorem movePort_empty {p : PortNo} (f : Port → Port) (hp : s.hold p = []) : State.HeldFrom s (s.movePort p f) :=
  (modPort_empty f hp).trans (.same rfl fun _ => rfl)

theorem answerHold (s : State) (p : PortNo) (status : Status) : State.HeldFrom s (s.answerHold p status) := by
  refine ⟨rfl, fun q hq => ⟨?_, rfl⟩⟩
  have hget : (s.answerHold p status).hold q = if p = q then [] else s.hold q := Table.get_set ..
  rw [hget] at hq ⊢
  split at hq
  · exact absurd rfl hq
  · next hne => exact if_neg hne

section
variable (h : s.Held k)
include h

theorem portEnable (p : PortNo) : State.HeldFrom s (s.portEnable p).1 := by
  unfold State.portEnable
  split
  · next hdisabled => exact modPort_empty _ (h.hold_eq_nil (by simp [hdisabled]) (by simp [hdisabled]))
  · next hfaulted => exact modPort_empty _ (h.hold_eq_nil (by simp [hfaulted]) (by simp [hfaulted]))
  all_goals exact .same rfl fun _ => rfl

theorem portDisable (p : PortNo) : State.HeldFrom s (s.portDisable p).1 := by
  have hempty := s.answerHold_hold_self p .aborted
  have hanswered := answerHold s p .aborted
  unfold State.portDisable
  split
  iterate 2 exact .same rfl fun _ => rfl
  · next hlinking => exact movePort_empty _ (h.hold_eq_nil (by simp [hlinking]) (by simp [hlinking]))
  · next hparked => exact movePort_empty _ (h.hold_eq_nil (by simp [hparked]) (by simp [hparked]))
  · exact hanswered.trans (movePort_empty _ hempty)
  · next hfaulted => exact movePort_empty _ (h.hold_eq_nil (by simp [hfaulted]) (by simp [hfaulted]))
  · dsimp only
    split
    · exact hanswered.trans (movePort_empty _ hempty)
    · exact hanswered.trans (modPort_empty _ hempty)

theorem writeEnable (p : PortNo) (v : Word) : State.HeldFrom s (s.writeEnable p v).1 := by
  unfold State.writeEnable
  split
  · exact portEnable h p
  · exact portDisable h p

omit h in
theorem writeIdentity (off : Nat) (v : Word) : State.HeldFrom s (s.writeIdentity off v) := by
  unfold State.writeIdentity
  split <;> exact .same rfl fun _ => rfl

theorem writeWord (off : Nat) (v : Word) : State.HeldFrom s (s.writeWord off v).1 := by
  unfold State.writeWord
  split
  · exact writeIdentity off v
  split
  · exact .same rfl fun _ => rfl
  split
  · dsimp only
    split
    · exact writeEnable h _ v
    · exact modPort_same fun q => q.writeConfig_state _ v
  split
  · exact .same rfl fun _ => rfl
  split
  · dsimp only
    exact modDa _
  · exact .same rfl fun _ => rfl

end

/-- Requests held before, under limits that have not risen, still wait (R73, R86). -/
theorem held (hs : s.Held True) (ht : t.Held False) (h : State.HeldFrom s t) (hlimits : limitRaised s t = false) :
    t.Held True := by
  refine ⟨ht.events, ht.requests, ht.depth, fun p hp => ?_⟩
  obtain ⟨hhold, hstate⟩ := h.holds p hp
  have hlimit : (t.port p).limit.toNat ≤ (s.port p).limit.toNat := by
    simpa [limitRaised] using (List.any_eq_false.1 hlimits) p (List.mem_finRange p)
  have hcount : t.tt.count p = s.tt.count p := by rw [Tt.count, Tt.count, h.entries]
  have hfree : t.tt.lowestFree = s.tt.lowestFree := by rw [Tt.lowestFree, Tt.lowestFree, h.entries]
  rw [hstate, hcount, hfree]
  exact (hs.waiting p (hhold ▸ hp)).imp_right fun hactive =>
    ⟨hactive.1, fun _ => (hactive.2 trivial).imp_left hlimit.trans⟩

end State.HeldFrom

/-! ### The steps -/

namespace State.Held
variable {s : State} (h : s.Held True)
include h

theorem accessWords (r : Request) : (s.accessWords r).1.Held False ∧ State.HeldFrom s (s.accessWords r).1 :=
  List.foldlRecOn (motive := fun acc : State × Status => acc.1.Held False ∧ State.HeldFrom s acc.1) _ _
    ⟨h.relax, .same rfl fun _ => rfl⟩
    fun _ hacc _ _ => ⟨hacc.1.writeWord _ _, hacc.2.trans (.writeWord hacc.1 _ _)⟩

/-- An access that raises a limit is followed by the issuing pass (R77, R86). -/
theorem access (r : Request) : (s.access r).1.Held True := by
  obtain ⟨hopen, hfrom⟩ := h.accessWords r
  unfold State.access
  dsimp only
  split
  · exact hopen.issuingPass
  · next hlimits => exact hfrom.held h hopen (by simpa using hlimits)

theorem serveWrite (r : Request) : (s.serveWrite r).Held True := by
  unfold State.serveWrite
  split
  · exact h.answer _ _
  split
  · exact h.answer _ _
  split
  · exact h.answer _ _
  · exact (h.access r).answer _ _

theorem serveWriteIf (test : Request → Bool) : (s.serveWriteIf test).Held True := by
  unfold State.serveWriteIf
  split
  · exact h
  split
  · exact (h.popMu.serveWrite _).settle
  · exact h

theorem serveRead (r : Request) : (s.serveRead r).Held True := by
  unfold State.serveRead
  split
  · exact h.answer _ _
  split
  · exact h.answer _ _
  split <;> exact h.respond _

theorem commitAction (pair : Pair) : (s.commitAction pair).state.Held True := by
  unfold State.commitAction
  split
  · exact h
  split
  · exact h
  · exact (h.modDa _).handEvent _ _ _ _

theorem stagingCopyAction : s.stagingCopyAction.state.Held True := by
  unfold State.stagingCopyAction
  split
  · exact h
  · dsimp only
    exact h.modDa _

theorem lockAction : s.lockAction.state.Held True := by
  dsimp only [State.lockAction]
  exact h.modDa _

theorem captureClearAction : s.captureClearAction.state.Held True := by
  dsimp only [State.captureClearAction]
  exact h.modDa _

theorem counterClearAction : s.counterClearAction.state.Held True := by
  have hcleared : ((s.modDa fun d => { d with hits := zeroHits }).modEv Events.clearCounters).Held True :=
    (h.modDa _).modEv h.events
  exact hcleared.modPorts_same (fun _ => rfl) fun _ => rfl

theorem takeFarFrame (p : PortNo) (c : FrameClass) (frame : List Word) : (s.takeFarFrame p c frame).Held True := by
  have hwoken : (s.movePort p Port.enterActive).Held False := h.movePort_active rfl
  unfold State.takeFarFrame
  split
  iterate 2 exact (hwoken.takeFrame p c frame).issuingPass
  · exact (h.modPort_same (f := Port.restartIdle) rfl rfl).takeFrame p c frame
  · exact h.takeFrame p c frame
  all_goals exact h

theorem startReset (pair : Pair) : (s.startReset pair).Held True :=
  ((h.modUp _).answerAll _ _).modMu (by simp)

theorem completeReset (pair : Pair) : (s.completeReset pair).Held True := by
  have hrecorded := (((h.answer pair .ok).record Cmd.segmentReset.code .ok (countAt 6 s.mu.aborts 0)).modUp
    fun u => { u with pause := false })
  exact hrecorded.modMu hrecorded.requests

theorem trafficReset : s.trafficReset.Held True := State.held_of_empty h.events h.requests rfl

theorem loseUpstream : s.loseUpstream.Held True := State.held_of_empty h.events (by simp [State.loseUpstream]) rfl

theorem helloFromController (identity : BitVec 4) : (s.helloFromController identity).Held True := by
  unfold State.helloFromController
  split
  · exact (h.modUp _).handEvent _ _ _ _
  · exact h.loseUpstream

theorem countUpBad : s.countUpBad.Held True := h.modEv h.events

theorem acceptOrAnswer (f : ReqFields) : (s.acceptOrAnswer f).Held True := by
  unfold State.acceptOrAnswer
  split
  · exact h.countUpBad
  split
  · exact h.countUpBad
  split
  · exact (h.modUp _).modEv h.events
  split
  · exact (h.modUp _).modEv h.events
  · exact (h.modUp _).modDa _

theorem takeUpFrame (frame : List Word) : (s.takeUpFrame frame).Held True := by
  unfold State.takeUpFrame
  split
  · split
    · exact (h.modUp _).acceptOrAnswer _
    all_goals exact h.countUpBad
  · exact h.countUpBad

end State.Held

section
variable {s : State} (h : s.Held True)
include h

/-- A command of the command word, taken when the head carries it. -/
theorem command_held {c : Cmd} {action : Request → CmdResult} (ha : ∀ r, (action r).state.Held True) :
    Ensures (State.Held True) (match s.mu.head with
      | none => .next s
      | some r => if s.headCarries c r then .next (takeCommand c r (action r)) else .next s) :=
  .served h fun r => .guarded h fun _ => (((ha r).record _ _ _).answer _ _).settle

theorem execTick_held : Ensures (State.Held True) (execTick s) := by
  refine .next (h.of_entries rfl rfl rfl (fun n p => ?_) (fun n => ?_) (fun p => ?_) fun p => ?_)
  · simp only [State.entry, Table.get_map, Entry.tick_names]
  · simp only [State.entry, Table.get_map, Entry.tick_state]
  all_goals simp only [State.port, Table.get_map, Port.tick]

theorem execUpstreamLinkLoss_held (cause : LossCause) : Ensures (State.Held True) (execUpstreamLinkLoss cause s) := by
  cases cause with
  | down arg check => exact .guarded h fun _ => h.loseUpstream.settle
  | symbolLock => exact .guarded h fun _ => h.loseUpstream.settle
  | hello arg check => exact .guarded h fun _ => (h.helloFromController _).settle

theorem execReqFrameReceived_held (frame : List Word) : Ensures (State.Held True) (execReqFrameReceived frame s) := by
  unfold execReqFrameReceived
  split
  · exact .next h
  · exact .next (h.takeUpFrame frame).settle

omit h in
/-- The records of a decode keep the depth of the event queue, and its counts leave it. -/
theorem State.withDecode_events (s : State) (rest : List Request) (r : Request) (x : State)
    (h : s.ev.queue.length ≤ 8) : (s.withDecode rest r x).ev.queue.length ≤ 8 := by
  have hcounted : ∀ cs : List DecisionCounter, (cs.foldl Events.countDecision s.ev).queue.length ≤ 8 := fun cs =>
    List.foldlRecOn (motive := fun e : Events => e.queue.length ≤ 8) _ _ h fun _ he _ _ => he
  exact List.foldlRecOn (motive := fun e : Events => e.queue.length ≤ 8) _ _ (hcounted _)
    fun _ he record _ => Events.hand_length record he

theorem execDecode_held : Ensures (State.Held True) (execDecode s) := by
  cases hintake : s.da.intake with
  | nil =>
    rw [execDecode, hintake]
    exact .next h
  | cons r rest =>
    rw [execDecode_cons hintake]
    have hoff := (h.modDa fun d => { d with intake := rest }).handOff r (s.verdictOf r)
    have hdecoded : State.Held True (s.withDecode rest r
        ((s.modDa fun d => { d with intake := rest }).handOff r (s.verdictOf r))) :=
      ⟨s.withDecode_events rest r _ h.events, hoff.requests, hoff.depth, hoff.waiting⟩
    exact .next hdecoded.settle

theorem execDownstreamFrame_held (p : PortNo) (frame : List Word) :
    Ensures (State.Held True) (execDownstreamFrame p frame s) := by
  have hbad : (s.modPort p fun q => { q with bad := satInc q.bad }).Held True := h.modPort_same rfl rfl
  refine .branch (fun _ => .branch (fun _ => ?_) fun _ => .next hbad) fun _ => .next h
  split
  · exact .next (h.takeFarFrame p .rsp frame).settle
  · exact .next (h.takeFarFrame p .ntf frame).settle
  all_goals exact .next hbad

theorem State.helloFromTarget_held (p : PortNo) : Ensures (State.Held True) (s.helloFromTarget p) := by
  unfold State.helloFromTarget
  split
  · exact .next (h.movePort_active rfl).issuingPass.settle
  iterate 4 exact .next (h.loseLink p).settle
  all_goals exact .next h

theorem execDownstreamLinkLoss_held (p : PortNo) (cause : LossCause) :
    Ensures (State.Held True) (execDownstreamLinkLoss p cause s) := by
  cases cause with
  | down arg check => exact .guarded h fun _ => (h.loseLink p).settle
  | symbolLock => exact .guarded h fun _ => (h.loseLink p).settle
  | hello arg check => exact .branch (fun _ => State.helloFromTarget_held h p) fun _ => .next h

theorem execReadyOrWakeReceived_held (p : PortNo) (sym : WakeSymbol) (arg : SymArg) (check : SymCheck) :
    Ensures (State.Held True) (execReadyOrWakeReceived p sym arg check s) := by
  refine .branch (fun _ => ?_) fun _ => .next h
  split
  iterate 2 exact .next (h.movePort_active (f := Port.enterActive) rfl).issuingPass.settle
  all_goals exact .next h

theorem execEntryTimeout_held (n : EntryNo) : Ensures (State.Held True) (execEntryTimeout n s) := by
  refine .guarded h fun ⟨hopened, _⟩ => ?_
  have hopen : (s.entry n).state ≠ .free := by simp [hopened]
  exact ((((h.answer _ _).expireEntry hopen).withdraw _ n).handEvent _ _ _ _).settle

/-- An idle port holds nothing (R103). -/
theorem execIdleTimerExpiry_held (p : PortNo) : Ensures (State.Held True) (execIdleTimerExpiry p s) := by
  refine .guarded h fun ⟨_, hidle⟩ => ?_
  simp only [State.idleHolds, Bool.and_eq_true, List.isEmpty_iff] at hidle
  obtain ⟨⟨-, hnil⟩, -⟩ := hidle
  exact (h.modPort_empty _ hnil).settle

theorem execUnknownCommand_held : Ensures (State.Held True) (execUnknownCommand s) := by
  refine .served h fun r => ?_
  split
  · exact .next h
  split
  · exact .next h
  · exact .next ((h.popMu.record _ _ _).answer _ _).settle

theorem execTrafficPhase_held : Ensures (State.Held True) (execTrafficPhase s) := by
  unfold execTrafficPhase
  split
  · exact .next (h.trafficReset.modMu h.trafficReset.requests).settle
  all_goals exact .next h

theorem execCapturePhase_held : Ensures (State.Held True) (execCapturePhase s) := by
  unfold execCapturePhase
  split
  · exact .next ((h.modDa _).modMu h.requests)
  all_goals exact .next h

theorem execSegmentResetCompletion_held : Ensures (State.Held True) (execSegmentResetCompletion s) := by
  unfold execSegmentResetCompletion
  split
  · exact .next (h.completeReset _).settle
  all_goals exact .next h

/-- Every command keeps the law. -/
theorem exec_held (c : Instr) : Ensures (State.Held True) (exec c s) := by
  cases c with
  | por straps => exact .next (State.held_of_empty (by simp [State.powerOn, Events.powerOn])
      (by simp [State.powerOn, Mu.powerOn]) rfl)
  | pinReset straps => exact .next (State.held_of_empty (by simp [Events.pinReset, Events.powerOn])
      (by simp [Mu.powerOn]) rfl)
  | tick => exact execTick_held h
  -- the upstream link and the egress queue
  | upstreamHelloTimerExpiry => exact .guarded h fun _ => h.modUp _
  | upstreamHello arg check => exact .guarded h fun _ => (h.helloFromController _).settle
  | upstreamLinkLoss cause => exact execUpstreamLinkLoss_held h cause
  | reqFrameReceived frame => exact execReqFrameReceived_held h frame
  | upstreamRspNtfFrame frame => exact execReqFrameReceived_held h frame
  | upstreamGrant arg check => exact .guarded h fun _ => (h.modUp _).settle
  | upstreamPark arg check => exact .guarded h fun _ => (h.modUp _).settle
  | upstreamWake arg check => exact .guarded h fun _ => (h.modUp _).settle
  | egressSend => exact .guarded h fun _ => (h.modUp _).settle
  | notificationClaim p => exact .guarded h fun _ => (h.takeClaim _).settle
  | eventClaim => exact .guarded h fun _ => (h.takeClaim _).settle
  | decode => exact execDecode_held h
  -- the ports and the transaction table
  | downstreamFrame p frame => exact execDownstreamFrame_held h p frame
  | downstreamGrantReq p arg check =>
    exact .guarded h fun _ => h.modPort_same (Port.sendMany_state _ _) (Port.sendMany_limit _ _)
  | portSend p => exact .next (h.modPort_same (Port.sendHead_state _) (Port.sendHead_limit _))
  | entryTimeout n => exact execEntryTimeout_held h n
  | quarantineEnd n => exact .guarded h fun _ => ((h.freeEntry n).issuingPass.finishDrain _).settle
  | portHelloTimerExpiry p => exact .guarded h fun _ => h.modPort_same rfl rfl
  | portHelloReceived p arg check => exact .branch (fun _ => State.helloFromTarget_held h p) fun _ => .next h
  | linkTimerExpiry p =>
    exact .guarded h fun ⟨hlinking, _⟩ =>
      (h.movePort_empty _ (h.hold_eq_nil (by simp [hlinking]) (by simp [hlinking]))).settle
  | downstreamLinkLoss p cause => exact execDownstreamLinkLoss_held h p cause
  | idleTimerExpiry p => exact execIdleTimerExpiry_held h p
  | readyOrWakeReceived p sym arg check => exact execReadyOrWakeReceived_held h p sym arg check
  | wakeTimerExpiry p =>
    exact .guarded h fun _ =>
      ((h.answerHold p .targetLost).movePort_empty _ (s.answerHold_hold_self p .targetLost)).settle
  -- the accesses of MU
  | managementRead => exact .served h fun r => .guarded h fun _ => (h.popMu.serveRead r).settle
  | managementWrite => exact .next (h.serveWriteIf _)
  | stagingWrite => exact .next (h.serveWriteIf _)
  | portConfigurationWrite => exact .next (h.serveWriteIf _)
  | eventOverflowClear => exact .next (h.serveWriteIf _)
  -- the commands of the command word
  | commit => exact command_held h fun r => h.popMu.commitAction r.pair
  | stagingCopy => exact command_held h fun _ => h.popMu.stagingCopyAction
  | lock => exact command_held h fun _ => h.popMu.lockAction
  | clearAll => exact command_held h fun _ => (h.popMu.modDa _).handEvent _ _ _ _
  | portEnable =>
    exact .served h fun r => .branch
      (fun _ => .next ((((h.popMu.portEnable _)).record _ _ _).answer _ _).settle) fun _ => .next (h.serveWriteIf _)
  | portDisable =>
    exact .served h fun r => .branch
      (fun _ => .next ((((h.popMu.portDisable _)).record _ _ _).answer _ _).settle) fun _ => .next (h.serveWriteIf _)
  | portRestart => exact command_held h fun _ => h.popMu.portRestart _
  | captureClear => exact command_held h fun _ => h.popMu.captureClearAction
  | counterClear => exact command_held h fun _ => h.popMu.counterClearAction
  | unknownCommand => exact execUnknownCommand_held h
  | segmentReset => exact .served h fun r => .guarded h fun _ => (h.popMu.startReset r.pair).settle
  | trafficPhase => exact execTrafficPhase_held h
  | capturePhase => exact execCapturePhase_held h
  | segmentResetCompletion => exact execSegmentResetCompletion_held h

end

/-- Settles O58, by the rule of each command. -/
theorem heldOnlyWhenWaitingKept : Obligations.HeldOnlyWhenWaitingKept := fun s t hheld hbounded hstep => by
  have h : s.Held True := State.held_iff.2 ⟨hheld, hbounded⟩
  refine State.held_iff.1 (Ensures.step (P := State.Held True) (h.modTb _) (fun c rest => ?_) t hstep)
  exact exec_held (s := { s with pending := rest }) ⟨h.events, h.requests, h.depth, h.waiting⟩ c

end Sys2Proof.Machine
end

section
/-! PROOF. The account of live requests (R136 to R141, R161): the live pairs are those of the requests that stand in the
director and of those a command has in hand. A command takes a request in hand, and answers it or puts it down. -/
namespace Sys2Proof.Machine

/-! ### Counts of pairs -/

/-- How often a pair is named by the held requests. -/
def Tt.heldCount (t : Tt) (q : Pair) : Nat := (((List.finRange 4).flatMap t.holds.get).map (fun r => r.pair)).count q

/-- How often a pair is named by the OPEN entries. -/
def Tt.openCount (t : Tt) (q : Pair) : Nat := t.entries.rows.countP (fun e => e.state = .opened && e.pair = q)

/-- How often a pair is named by the requests that stand in the intake, in MU's queue, held or issued. -/
def State.standing (s : State) (q : Pair) : Nat :=
  (s.da.intake.map (fun r => r.pair)).count q + (s.mu.queue.map (fun r => r.pair)).count q + s.tt.heldCount q
    + s.tt.openCount q

theorem Tt.count_openPairs (t : Tt) (test : Entry → Bool) (q : Pair) : (t.openPairs test).count q
    = t.entries.rows.countP (fun e => e.state = .opened && test e && e.pair = q) := by
  rw [Tt.openPairs, List.count_eq_countP, List.countP_map, List.countP_filter]
  refine List.countP_congr fun e _ => ?_
  simp [and_comm]

theorem State.count_inFlight (s : State) (q : Pair) :
    s.inFlight.count q = s.standing q + s.resetWrite.count q := by
  have hopen : (s.tt.openPairs fun _ => true).count q = s.tt.openCount q := by
    simp only [Tt.count_openPairs, Tt.openCount, Bool.and_true]
  simp only [State.inFlight, List.count_append, hopen, State.standing]
  rfl

/-- Hold queue `p` replaced: the pairs of the queue left go, those of the queue set come. -/
theorem Tt.heldCount_set (t : Tt) (p : PortNo) (rs : List Request) (q : Pair) :
    ({ t with holds := t.holds.set p rs } : Tt).heldCount q + ((t.holds.get p).map (fun r => r.pair)).count q
      = t.heldCount q + (rs.map (fun r => r.pair)).count q := by
  simp only [Tt.heldCount, List.finRange_succ, List.finRange_zero, List.map_nil, List.map_cons, List.flatMap_cons,
    List.flatMap_nil, List.map_append, List.count_append, Table.get_set]
  fin_cases p <;> simp <;> omega

/-- Entry `n` replaced: its pair goes if it was OPEN, the new one's comes if it is. -/
theorem Tt.openCount_set (t : Tt) (n : EntryNo) (e : Entry) (q : Pair) :
    ({ t with entries := t.entries.set n e } : Tt).openCount q
        + (decide ((t.entries.get n).state = .opened) && decide ((t.entries.get n).pair = q)).toNat
      = t.openCount q + (decide (e.state = .opened) && decide (e.pair = q)).toNat :=
  Table.countP_set t.entries (fun e => e.state = .opened && e.pair = q) n e

/-- The entries of port `p` freed: the pairs of the OPEN ones go. -/
theorem Tt.openCount_freePort (t : Tt) (p : PortNo) (q : Pair) :
    (t.freePort p).openCount q + (t.openPairs fun e => e.port = p).count q = t.openCount q := by
  have key : ∀ l : List Entry,
      (l.map fun e => if e.names p then Entry.blank else e).countP (fun e => e.state = .opened && e.pair = q)
        + l.countP (fun e => e.state = .opened && decide (e.port = p) && e.pair = q)
      = l.countP (fun e => e.state = .opened && e.pair = q) := by
    intro l
    induction l with
    | nil => rfl
    | cons e l ih =>
      have hentry : (if (decide ((if e.names p then Entry.blank else e).state = .opened)
            && decide ((if e.names p then Entry.blank else e).pair = q)) = true then 1 else 0)
          + (if (decide (e.state = .opened) && decide (e.port = p) && decide (e.pair = q)) = true then 1 else 0)
          = if (decide (e.state = .opened) && decide (e.pair = q)) = true then 1 else 0 := by
        have hblank : Entry.blank.state = .free := rfl
        by_cases hport : e.port = p <;> cases hstate : e.state <;> simp [Entry.names, hport, hstate, hblank]
      simp only [List.map_cons, List.countP_cons]
      omega
  rw [Tt.count_openPairs]
  exact key _

theorem Tt.openCount_powerOn (q : Pair) : Tt.powerOn.openCount q = 0 := by
  rw [Tt.openCount, List.countP_eq_zero]
  intro e he
  obtain ⟨-, rfl⟩ := List.mem_replicate.1 he
  simp [Entry.blank]

theorem Tt.heldCount_empty {t : Tt} (h : t.holds = Table.replicate 4 []) (q : Pair) : t.heldCount q = 0 := by
  simp [Tt.heldCount, h, List.finRange_succ]

/-! ### UP -/

theorem Up.respond_conserved {u : Up} (h : u.Conserved) (r : Rsp) : (u.respond r).Conserved := by
  obtain ⟨hplaces, hmatch, hnodup⟩ := h
  by_cases hlive : r.pair ∈ u.live
  · rw [Up.respond_live hlive]
    have hpos := List.length_pos_of_mem hlive
    refine ⟨?_, ?_, hnodup.erase _⟩
    · simp only [List.length_append, List.length_cons, List.length_nil]
      omega
    · simp only [List.length_erase_of_mem hlive, hmatch]
  · rw [Up.respond_dead hlive]
    exact ⟨hplaces, hmatch, hnodup⟩

theorem Up.respond_pause (u : Up) (r : Rsp) (b : Bool) :
    { u.respond r with pause := b } = Up.respond { u with pause := b } r := by
  unfold Up.respond
  split <;> rfl

theorem Up.setPause_eq (v : Up) : v.setPause = { v with
    pause := true, reqCredit := v.setPause.reqCredit, sent := v.setPause.sent } := by
  unfold Up.setPause
  split <;> rfl

/-- Notifications queued answer nobody. -/
theorem Up.Answers.of_claimed {u v : Up} (hlive : v.live = u.live)
    (h : ∃ ns : List Ntf, v.egress = u.egress ++ ns.map UpFrame.ntf) : Up.Answers u v := by
  obtain ⟨ns, hns⟩ := h
  refine ⟨fun hn => hlive ▸ hn, fun pair hp => hlive ▸ hp, fun _ => ⟨ns.map UpFrame.ntf, hns, fun pair => ?_⟩⟩
  rw [hlive, if_neg (fun hc => hc.2 hc.1), List.countP_eq_zero]
  intro f hf
  obtain ⟨n, -, rfl⟩ := List.mem_map.1 hf
  simp [UpFrame.answers]

/-- A send takes frames off the head of the queue, and keeps the rest of the account. -/
structure Up.Sends (k : Nat) (u v : Up) : Prop where
  egress : v.egress = u.egress.drop k
  reservations : v.reservations = u.reservations
  live : v.live = u.live
  pause : v.pause = u.pause

theorem Up.spend_sends (u : Up) (f : UpFrame) : Up.Sends 0 u (u.spend f) := by
  cases f <;> exact ⟨rfl, rfl, rfl, rfl⟩

theorem Up.sendHead_sends (u : Up) : ∃ k, Up.Sends k u u.sendHead := by
  unfold Up.sendHead
  split
  · exact ⟨0, rfl, rfl, rfl, rfl⟩
  · next f rest hqueue =>
    split
    · obtain ⟨he, hr, hl, hp⟩ := Up.spend_sends { u with egress := rest } f
      exact ⟨1, by rw [hqueue]; exact he, hr, hl, hp⟩
    · exact ⟨0, rfl, rfl, rfl, rfl⟩

theorem Up.sendMany_sends (n : Nat) (u : Up) : ∃ k, Up.Sends k u (Up.sendMany n u) := by
  induction n generalizing u with
  | zero => exact ⟨0, rfl, rfl, rfl, rfl⟩
  | succ n ih =>
    rw [Up.sendMany]
    split
    · obtain ⟨j, he, hr, hl, hp⟩ := u.sendHead_sends
      obtain ⟨k, he', hr', hl', hp'⟩ := ih u.sendHead
      exact ⟨j + k, by rw [he', he, List.drop_drop], hr'.trans hr, hl'.trans hl, hp'.trans hp⟩
    · exact ⟨0, rfl, rfl, rfl, rfl⟩

theorem Up.takeGrant_sends (u : Up) (c : Option FrameClass) (count : BitVec 8) : Up.Sends 0 u (u.takeGrant c count) := by
  unfold Up.takeGrant
  split <;> exact ⟨rfl, rfl, rfl, rfl⟩

/-! ### The account -/

/-- The account in a command that began with UP at `u` and has the requests of `hand` off their places: the live pairs are
those of the requests that stand and of those in hand, and UP has answered the pairs that left the live set since `u`. -/
structure State.Accounted (u : Up) (hand : List Pair) (s : State) : Prop where
  conserved : s.up.Conserved
  balance : ∀ q, s.up.live.count q = hand.count q + s.standing q + s.resetWrite.count q
  reset : s.ResetHolds
  answers : Up.Answers u s.up

theorem State.liveInFlight_iff {s : State} :
    s.LiveInFlight ↔ ∀ q, s.up.live.count q = ([] : List Pair).count q + s.standing q + s.resetWrite.count q := by
  rw [State.LiveInFlight, List.perm_iff_count]
  simp [State.count_inFlight]

theorem State.mem_resetWrite {s : State} {w : Pair} {ph : ResetPhase} (h : s.mu.cmd = .executing ph w) :
    s.resetWrite = if w ∈ s.up.live then [w] else [] := by
  rw [State.resetWrite, h]

theorem State.resetWrite_idle {s : State} (h : s.mu.cmd = .idle) : s.resetWrite = [] := by
  rw [State.resetWrite, h]

theorem State.resetHolds_idle {s : State} (h : s.mu.cmd = .idle) :
    s.ResetHolds ↔ s.up.pause = false ∧ s.mu.aborts = 0 := by
  rw [State.ResetHolds, h]

theorem State.resetHolds_executing {s : State} {ph : ResetPhase} {w : Pair} (h : s.mu.cmd = .executing ph w) :
    s.ResetHolds ↔ s.up.pause = true ∧ s.mu.queue = [] := by
  rw [State.ResetHolds, h]

/-- The completion of a SEGMENT-RESET but for the answer to its write and the last result (R163). -/
def State.endReset (s : State) : State :=
  (s.modUp fun v => { v with pause := false }).modMu fun m => { m with cmd := .idle, aborts := 0 }

namespace State.Accounted
variable {u : Up} {hand : List Pair} {s t : State}

/-- A command begins with nothing in hand. -/
theorem start (hconserved : s.up.Conserved) (hlive : s.LiveInFlight) (hreset : s.ResetHolds) :
    State.Accounted s.up [] s := ⟨hconserved, State.liveInFlight_iff.1 hlive, hreset, .refl _⟩

section
variable (h : State.Accounted u hand s)
include h

theorem rebase : State.Accounted s.up hand s := ⟨h.conserved, h.balance, h.reset, .refl _⟩

theorem mem_live {q : Pair} (hq : q ∈ hand) : q ∈ s.up.live := by
  rw [← List.count_pos_iff, h.balance]
  have := List.count_pos_iff.2 hq
  omega

/-- What the account does not read may change. -/
theorem congr (hegress : t.up.egress = s.up.egress) (hreservations : t.up.reservations = s.up.reservations)
    (hlive : t.up.live = s.up.live) (hpause : t.up.pause = s.up.pause) (hstanding : t.standing = s.standing)
    (hcmd : t.mu.cmd = s.mu.cmd) (hqueue : t.mu.queue = s.mu.queue) (haborts : t.mu.aborts = s.mu.aborts) :
    State.Accounted u hand t := by
  obtain ⟨hconserved, hbalance, hreset, hanswers⟩ := h
  refine ⟨by rw [Up.Conserved, hegress, hreservations, hlive]; exact hconserved, fun q => ?_, ?_,
    hanswers.trans (.same hegress hlive)⟩
  · rw [hlive, hstanding, State.resetWrite, hcmd, hlive]
    exact hbalance q
  · rw [State.ResetHolds, hcmd, hpause, hqueue, haborts]
    exact hreset

theorem modUp {f : Up → Up} (he : (f s.up).egress = s.up.egress) (hr : (f s.up).reservations = s.up.reservations)
    (hl : (f s.up).live = s.up.live) (hp : (f s.up).pause = s.up.pause) : State.Accounted u hand (s.modUp f) :=
  h.congr he hr hl hp rfl rfl rfl rfl
theorem modDa {f : Da → Da} (hf : (f s.da).intake = s.da.intake) : State.Accounted u hand (s.modDa f) :=
  h.congr rfl rfl rfl rfl (by funext q; simp only [State.standing, State.modDa_da, hf]; rfl) rfl rfl rfl
theorem modMu {f : Mu → Mu} (hcmd : (f s.mu).cmd = s.mu.cmd) (hqueue : (f s.mu).queue = s.mu.queue)
    (haborts : (f s.mu).aborts = s.mu.aborts) : State.Accounted u hand (s.modMu f) :=
  h.congr rfl rfl rfl rfl (by funext q; simp only [State.standing, State.modMu_mu, hqueue]; rfl) hcmd hqueue haborts
theorem modEv (f : Events → Events) : State.Accounted u hand (s.modEv f) :=
  h.congr rfl rfl rfl rfl rfl rfl rfl rfl
theorem modTb (f : Timebase → Timebase) : State.Accounted u hand (s.modTb f) :=
  h.congr rfl rfl rfl rfl rfl rfl rfl rfl
theorem modPort (p : PortNo) (f : Port → Port) : State.Accounted u hand (s.modPort p f) :=
  h.congr rfl rfl rfl rfl rfl rfl rfl rfl
theorem modPorts (f : Port → Port) : State.Accounted u hand (s.modPorts f) :=
  h.congr rfl rfl rfl rfl rfl rfl rfl rfl
theorem handEvent (kind : EventKind) (locus : Locus) (pair : Option Pair) (detail : Word) :
    State.Accounted u hand (s.handEvent kind locus pair detail) := h.modEv _
theorem movePort (p : PortNo) (f : Port → Port) : State.Accounted u hand (s.movePort p f) :=
  (h.modPort p f).handEvent _ _ _ _
theorem record (command : BitVec 8) (status : Status) (detail : Word) :
    State.Accounted u hand (s.record command status detail) := h.modMu rfl rfl rfl
theorem withdraw (p : PortNo) (n : EntryNo) : State.Accounted u hand (s.withdraw p n) := h.modPort p _

theorem finishDrain (p : PortNo) : State.Accounted u hand (s.finishDrain p) := by
  unfold State.finishDrain
  split
  · exact h.movePort p _
  · exact h

/-! A request leaves its place or takes one. -/

/-- A change of places alone, by its effect on the counts. -/
theorem move {hand' : List Pair} (hup : t.up = s.up) (hmu : t.mu.cmd = s.mu.cmd) (haborts : t.mu.aborts = s.mu.aborts)
    (hqueue : s.mu.queue = [] → t.mu.queue = []) (hplaces : ∀ q, hand'.count q + t.standing q = hand.count q + s.standing q) :
    State.Accounted u hand' t := by
  obtain ⟨hconserved, hbalance, hreset, hanswers⟩ := h
  refine ⟨hup ▸ hconserved, fun q => ?_, ?_, hup ▸ hanswers⟩
  · rw [State.resetWrite, hmu, hup, hplaces]
    exact hbalance q
  · rw [State.ResetHolds, hmu, hup, haborts]
    rw [State.ResetHolds] at hreset
    split
    · simp_all
    · simp_all

theorem takeIntake {r : Request} {rest : List Request} (hintake : s.da.intake = r :: rest) :
    State.Accounted u (r.pair :: hand) (s.modDa fun d => { d with intake := rest }) := by
  refine h.move rfl rfl rfl id fun q => ?_
  simp only [State.standing, State.modDa_da, State.modDa_mu, State.modDa_tt, hintake, List.map_cons, List.count_cons]
  omega

theorem popMu {r : Request} (hhead : s.mu.head = some r) : State.Accounted u (r.pair :: hand) s.popMu := by
  have hqueue : ∃ rest, s.mu.queue = r :: rest := by
    rw [Mu.head] at hhead
    split at hhead
    · exact List.head?_eq_some_iff.1 hhead
    · cases hhead
  obtain ⟨rest, hqueue⟩ := hqueue
  refine h.move rfl rfl rfl (fun hnil => by simp [hqueue] at hnil) fun q => ?_
  simp only [State.standing, State.popMu, State.modMu_da, State.modMu_mu, State.modMu_tt, hqueue, List.tail_cons,
    List.map_cons, List.count_cons]
  omega

/-- Hold queue `p` replaced: its requests are taken in hand, those of the queue set leave the hand. -/
theorem setHold {hand' : List Pair} {p : PortNo} {rs : List Request} (hhand : ∀ q,
      hand'.count q + (rs.map fun r => r.pair).count q = hand.count q + ((s.hold p).map fun r => r.pair).count q) :
    State.Accounted u hand' (s.modTt fun t => { t with holds := t.holds.set p rs }) := by
  refine h.move rfl rfl rfl id fun q => ?_
  have hset := Tt.heldCount_set s.tt p rs q
  have hq := hhand q
  have hopen : ({ s.tt with holds := s.tt.holds.set p rs } : Tt).openCount q = s.tt.openCount q := rfl
  simp only [State.hold] at hq
  simp only [State.standing, State.modTt_da, State.modTt_mu, State.modTt_tt, hopen]
  omega

/-- Entry `n` replaced: the pair of an OPEN one is taken in hand, that of the one set leaves the hand. -/
theorem setEntry {hand' : List Pair} {n : EntryNo} {e : Entry} (hhand : ∀ q,
      hand'.count q + (decide (e.state = .opened) && decide (e.pair = q)).toNat
        = hand.count q + (decide ((s.entry n).state = .opened) && decide ((s.entry n).pair = q)).toNat) :
    State.Accounted u hand' (s.modTt fun t => { t with entries := t.entries.set n e }) := by
  refine h.move rfl rfl rfl id fun q => ?_
  have hset := Tt.openCount_set s.tt n e q
  have hq := hhand q
  have hheld : ({ s.tt with entries := s.tt.entries.set n e } : Tt).heldCount q = s.tt.heldCount q := rfl
  unfold State.entry at hq
  simp only [State.standing, State.modTt_da, State.modTt_mu, State.modTt_tt, hheld]
  omega

/-- An OPEN entry that ends puts its pair in hand. -/
theorem takeEntry {n : EntryNo} {e : Entry} (hn : (s.entry n).state = .opened) (he : e.state ≠ .opened) :
    State.Accounted u ((s.entry n).pair :: hand) (s.modTt fun t => { t with entries := t.entries.set n e }) :=
  h.setEntry fun q => by by_cases hpair : (s.entry n).pair = q <;> simp [hn, he, hpair]

/-- An entry that is not OPEN may be replaced by another that is not. -/
theorem setEntry_same {n : EntryNo} {e : Entry} (hn : (s.entry n).state ≠ .opened) (he : e.state ≠ .opened) :
    State.Accounted u hand (s.modTt fun t => { t with entries := t.entries.set n e }) :=
  h.setEntry fun q => by simp [hn, he]

theorem freePort (p : PortNo) :
    State.Accounted u ((s.tt.openPairs fun e => e.port = p) ++ hand) (s.modTt fun t => t.freePort p) := by
  refine h.move rfl rfl rfl id fun q => ?_
  have hfree := Tt.openCount_freePort s.tt p q
  have hheld : (s.tt.freePort p).heldCount q = s.tt.heldCount q := rfl
  simp only [State.standing, State.modTt_da, State.modTt_mu, State.modTt_tt, hheld, List.count_append]
  omega

/-- The whole table cleared puts every OPEN and every held pair in hand. -/
theorem clearTt : State.Accounted u (s.trafficPairs ++ hand) (s.modTt fun _ => Tt.powerOn) := by
  refine h.move rfl rfl rfl id fun q => ?_
  have hopen : (s.tt.openPairs fun _ => true).count q = s.tt.openCount q := by
    simp only [Tt.count_openPairs, Tt.openCount, Bool.and_true]
  have hheld : (((List.finRange 4).flatMap s.hold).map fun r => r.pair).count q = s.tt.heldCount q := rfl
  have hclear : Tt.powerOn.heldCount q = 0 := Tt.heldCount_empty rfl q
  simp only [State.standing, State.modTt_da, State.modTt_mu, State.modTt_tt, Tt.openCount_powerOn, hclear,
    State.trafficPairs, List.count_append, hopen, hheld]
  omega

end

section
variable {pair : Pair} (h : State.Accounted u (pair :: hand) s)
include h

/-- A request in hand is answered. -/
theorem respond {r : Rsp} (hr : r.pair = pair) : State.Accounted u hand (s.respond r) := by
  have hlive : r.pair ∈ s.up.live := h.mem_live (hr ▸ List.mem_cons_self)
  have hup : (s.respond r).up.live = s.up.live.erase r.pair := congrArg Up.live (Up.respond_live hlive)
  have hpause : (s.respond r).up.pause = s.up.pause := (congrArg Up.pause (Up.respond_live hlive) :)
  have hwrite : (s.respond r).resetWrite = s.resetWrite := by
    cases hcmd : s.mu.cmd with
    | idle => rw [State.resetWrite_idle (s := s.respond r) hcmd, State.resetWrite_idle hcmd]
    | executing ph w =>
      rw [State.mem_resetWrite (s := s.respond r) hcmd, State.mem_resetWrite hcmd, hup]
      by_cases hw : w = r.pair
      · have hbalance := h.balance w
        have honce := List.nodup_iff_count_le_one.1 h.conserved.2.2 w
        rw [State.mem_resetWrite hcmd, if_pos (hw ▸ hlive)] at hbalance
        simp [hw, hr] at hbalance honce
        omega
      · simp only [List.mem_erase_of_ne hw]
  refine ⟨Up.respond_conserved h.conserved r, fun q => ?_, ?_, h.answers.trans (Up.respond_answers _ r)⟩
  · have hbalance := h.balance q
    rw [hup, List.count_erase, hwrite]
    have hstanding : (s.respond r).standing q = s.standing q := rfl
    rw [hstanding, hbalance, hr, List.count_cons]
    split <;> omega
  · rw [State.ResetHolds, hpause]
    exact h.reset

theorem answer (status : Status) : State.Accounted u hand (s.answer pair status) := h.respond rfl

end

/-- Requests in hand are answered in turn. -/
theorem answerAll {pairs : List Pair} (h : State.Accounted u (pairs ++ hand) s) (status : Status) :
    State.Accounted u hand (s.answerAll pairs status) := by
  induction pairs generalizing s with
  | nil => exact h
  | cons pair pairs ih => exact ih (h.answer status)

section
variable (h : State.Accounted u hand s)
include h

theorem answerHold (p : PortNo) (status : Status) : State.Accounted u hand (s.answerHold p status) :=
  (h.setHold (hand' := (s.hold p).map (fun r => r.pair) ++ hand) (p := p) (rs := [])
    fun q => by simp [List.count_append, Nat.add_comm]).answerAll status

theorem cutPort (p : PortNo) (status : Status) : State.Accounted u hand (s.cutPort p status) :=
  (((h.freePort p).answerAll status).answerHold p status).modPort p _

end

/-- A request in hand is issued into a FREE entry. -/
theorem issueInto {n : EntryNo} (p : PortNo) {r : Request} (h : State.Accounted u (r.pair :: hand) s)
    (hn : s.tt.lowestFree = some n) : State.Accounted u hand (s.issueInto n p r) := by
  have hfree : (s.entry n).state = .free := (Tt.lowestFree_eq_some.1 hn).1
  refine (h.setEntry (hand' := hand) (n := n) (e := s.issuedEntry p r) fun q => ?_).modPort p _
  by_cases hpair : r.pair = q <;> simp [State.issuedEntry, hfree, hpair]

theorem issued (h : State.Accounted u hand s) {n : EntryNo} {p : PortNo} {r : Request} {rest : List Request}
    (hn : s.tt.lowestFree = some n) (hr : s.hold p = r :: rest) : State.Accounted u hand (s.issued n p r rest) := by
  have htaken := h.setHold (hand' := r.pair :: hand) (p := p) (rs := rest) fun q => by
    simp only [hr, List.map_cons, List.count_cons]
    omega
  have hmoved : State.Accounted u (r.pair :: hand) (s.modTt fun t => { t with holds := t.holds.set p rest, rr := p + 1 }) :=
    htaken.congr rfl rfl rfl rfl rfl rfl rfl rfl
  exact hmoved.issueInto p hn

theorem issuingPass (h : State.Accounted u hand s) : State.Accounted u hand s.issuingPass :=
  State.passRounds_induction h fun _ _ _ _ _ ht _ hn hr => ht.issued hn hr

theorem joinHold (p : PortNo) {r : Request} (h : State.Accounted u (r.pair :: hand) s) :
    State.Accounted u hand (s.joinHold p r) :=
  h.setHold (p := p) (rs := s.hold p ++ [r]) fun q => by
    simp only [List.map_append, List.count_append, List.map_cons, List.map_nil, List.count_cons, List.count_nil]
    omega

theorem holdOrBusy (p : PortNo) {r : Request} (h : State.Accounted u (r.pair :: hand) s) :
    State.Accounted u hand (s.holdOrBusy p r) := by
  unfold State.holdOrBusy
  split
  · exact h.joinHold p
  · exact h.answer _

theorem takeDecoded (p : PortNo) {r : Request} (h : State.Accounted u (r.pair :: hand) s) :
    State.Accounted u hand (s.takeDecoded p r) := by
  unfold State.takeDecoded
  split
  iterate 4 exact h.answer _
  · exact (h.joinHold p).modPort p _
  · exact h.holdOrBusy p
  · split
    · next hn =>
      split
      · exact h.issueInto p hn
      · exact h.holdOrBusy p
    · exact h.holdOrBusy p

/-- While a SEGMENT-RESET runs, its phase and its count may change. -/
theorem modMu_executing (h : State.Accounted u hand s) {ph ph' : ResetPhase} {w : Pair} {f : Mu → Mu}
    (hcmd : s.mu.cmd = .executing ph w) (hf : (f s.mu).cmd = .executing ph' w)
    (hqueue : (f s.mu).queue = s.mu.queue) : State.Accounted u hand (s.modMu f) := by
  obtain ⟨hconserved, hbalance, hreset, hanswers⟩ := h
  have hstanding : (s.modMu f).standing = s.standing := by
    funext q
    simp only [State.standing, State.modMu_mu, hqueue]
    rfl
  have hwrite : (s.modMu f).resetWrite = s.resetWrite := by
    rw [State.mem_resetWrite (s := s.modMu f) hf, State.mem_resetWrite hcmd]
    rfl
  refine ⟨hconserved, fun q => ?_, ?_, hanswers⟩
  · rw [hstanding, hwrite]
    exact hbalance q
  · rw [State.resetHolds_executing (s := s.modMu f) hf]
    rw [State.resetHolds_executing hcmd] at hreset
    exact ⟨hreset.1, hqueue.trans hreset.2⟩

theorem takeMgmt {r : Request} (h : State.Accounted u (r.pair :: hand) s) : State.Accounted u hand (s.takeMgmt r) := by
  unfold State.takeMgmt
  split
  · next hcmd => exact (h.answer .aborted).modMu_executing hcmd hcmd rfl
  · next hcmd =>
    split
    · obtain ⟨hconserved, hbalance, hreset, hanswers⟩ := h
      rw [State.resetHolds_idle hcmd] at hreset
      have hidle : (s.modMu fun m => { m with queue := m.queue ++ [r] }).mu.cmd = .idle := hcmd
      refine ⟨hconserved, fun q => ?_, (State.resetHolds_idle hidle).2 hreset, hanswers⟩
      have hq := hbalance q
      rw [State.resetWrite_idle hcmd] at hq
      rw [State.resetWrite_idle hidle]
      simp only [State.standing, State.modMu_up, State.modMu_da, State.modMu_mu, State.modMu_tt, List.map_append,
        List.count_append, List.count_cons, List.map_cons, List.map_nil, List.count_nil] at hq ⊢
      omega
    · exact h.answer _

theorem handOff {r : Request} (v : Verdict) (h : State.Accounted u (r.pair :: hand) s) :
    State.Accounted u hand (s.handOff r v) := by
  cases v with
  | toPort p addr => exact h.takeDecoded p (r := { r with addr := addr })
  | toMgmt => exact h.takeMgmt
  | refuse status => exact h.answer _

/-! The claims and the end of a happening. -/

/-- Notifications claimed into the room there is. -/
theorem claimed (h : State.Accounted u hand s) {ns : List Ntf} (hegress : t.up.egress = s.up.egress ++ ns.map UpFrame.ntf)
    (hroom : ns.length ≤ s.up.room) (hreservations : t.up.reservations = s.up.reservations)
    (hlive : t.up.live = s.up.live) (hpause : t.up.pause = s.up.pause) (hstanding : t.standing = s.standing)
    (hmu : t.mu = s.mu) : State.Accounted u hand t := by
  obtain ⟨⟨hplaces, hmatch, hnodup⟩, hbalance, hreset, hanswers⟩ := h
  refine ⟨⟨?_, by rw [hreservations, hlive, hmatch], hlive ▸ hnodup⟩, fun q => ?_, ?_,
    hanswers.trans (.of_claimed hlive ⟨ns, hegress⟩)⟩
  · rw [hegress, hreservations, List.length_append, List.length_map]
    simp only [Up.room] at hroom
    omega
  · rw [hlive, hstanding, State.resetWrite, hmu, hlive]
    exact hbalance q
  · rw [State.ResetHolds, hmu, hpause]
    exact hreset

theorem takeClaim (h : State.Accounted u hand s) {c : Claimant} (hc : s.nextClaim = some c) :
    State.Accounted u hand (s.takeClaim c) := by
  have hclaims := State.takeClaim_claims hc
  obtain ⟨ns, hegress, hroom, -⟩ := hclaims.claimed
  have hup := hclaims.up
  exact h.claimed hegress hroom (congrArg Up.reservations hup :) (congrArg Up.live hup :) (congrArg Up.pause hup :)
    (by funext q; simp only [State.standing, hclaims.da, hclaims.mu, hclaims.tt]) hclaims.mu

theorem settle (h : State.Accounted u hand s) : State.Accounted u hand s.settle := by
  have hcloses := s.settle_closes
  obtain ⟨ns, hegress, hroom, -⟩ := hcloses.claimed
  have hup := hcloses.up
  exact h.claimed hegress hroom (congrArg Up.reservations hup :) (congrArg Up.live hup :) (congrArg Up.pause hup :)
    (by funext q; simp only [State.standing, hcloses.da, hcloses.mu, hcloses.tt]) hcloses.mu

/-! ### What a target sends, and the timers -/

section
variable (h : State.Accounted u hand s)
include h

theorem takeAnswer (p : PortNo) {n : EntryNo} (r : TargetRsp) (hn : (s.entry n).state = .opened) :
    State.Accounted u hand (s.takeAnswer p n r) :=
  ((((h.takeEntry (e := Entry.blank) hn nofun).respond (forwarded_pair (s.entry n) r)).withdraw p n).issuingPass).finishDrain p

/-- An entry that is not OPEN is freed without an answer. -/
theorem freeEntry {n : EntryNo} (hn : (s.entry n).state ≠ .opened) : State.Accounted u hand (s.freeEntry n) :=
  h.setEntry_same hn nofun

theorem takeLate (p : PortNo) {n : EntryNo} (r : TargetRsp) (hn : (s.entry n).state ≠ .opened) :
    State.Accounted u hand (s.takeLate p n r) :=
  (((h.freeEntry hn).modPort p _).handEvent _ _ _ _).issuingPass.finishDrain p

theorem takeStray (p : PortNo) (tag : BitVec 6) : State.Accounted u hand (s.takeStray p tag) :=
  (h.modPort p _).handEvent _ _ _ _

theorem matchResponse (p : PortNo) (r : TargetRsp) : State.Accounted u hand (s.matchResponse p r) := by
  unfold State.matchResponse
  split
  · dsimp only
    split
    · split
      · next hopened => exact h.takeAnswer p r hopened
      · next hexpired => exact h.takeLate p r (by rw [hexpired]; nofun)
      · exact h.takeStray p r.tag
    · exact h.takeStray p r.tag
  · exact h.takeStray p r.tag

theorem takeFrame (p : PortNo) (c : FrameClass) (frame : List Word) :
    State.Accounted u hand (s.takeFrame p c frame) := by
  cases c with
  | rsp => exact h.matchResponse p _
  | ntf => exact h.modPort p _
  | req => exact h

theorem takeFarFrame (p : PortNo) (c : FrameClass) (frame : List Word) :
    State.Accounted u hand (s.takeFarFrame p c frame) := by
  unfold State.takeFarFrame
  split
  iterate 2 exact ((h.movePort p Port.enterActive).takeFrame p c frame).issuingPass
  · exact (h.modPort p Port.restartIdle).takeFrame p c frame
  · exact h.takeFrame p c frame
  all_goals exact h

theorem loseLink (p : PortNo) : State.Accounted u hand (s.loseLink p) := by
  unfold State.loseLink
  split
  iterate 4 exact ((h.cutPort p .targetLost).movePort p _).issuingPass
  all_goals exact h

/-! ### The commands of a port and the management window -/

theorem portEnable (p : PortNo) : State.Accounted u hand (s.portEnable p).1 := by
  unfold State.portEnable
  split
  iterate 2 exact h.modPort p _
  all_goals exact h

theorem portDisable (p : PortNo) : State.Accounted u hand (s.portDisable p).1 := by
  unfold State.portDisable
  split
  iterate 2 exact h
  iterate 2 exact h.movePort p _
  · exact (h.answerHold p .aborted).movePort p _
  · exact h.movePort p _
  · dsimp only
    split
    · exact (h.answerHold p .aborted).movePort p _
    · exact (h.answerHold p .aborted).modPort p _

theorem portRestart (p : PortNo) : State.Accounted u hand (s.portRestart p).1 := by
  unfold State.portRestart
  split
  · exact h
  all_goals exact ((h.cutPort p .aborted).modPort p _).issuingPass

theorem writeIdentity (off : Nat) (v : Word) : State.Accounted u hand (s.writeIdentity off v) := by
  unfold State.writeIdentity
  split
  · exact h.modUp rfl rfl rfl rfl
  · exact h.modDa rfl
  · exact h.modTb _
  · exact h.modEv _
  · exact h.modEv _
  · exact h

theorem writeEnable (p : PortNo) (v : Word) : State.Accounted u hand (s.writeEnable p v).1 := by
  unfold State.writeEnable
  split
  · exact h.portEnable p
  · exact h.portDisable p

theorem writeWord (off : Nat) (v : Word) : State.Accounted u hand (s.writeWord off v).1 := by
  unfold State.writeWord
  split
  · exact h.writeIdentity off v
  split
  · dsimp only
    exact h.modMu rfl rfl rfl
  split
  · dsimp only
    split
    · exact h.writeEnable _ v
    · exact h.modPort _ _
  split
  · dsimp only
    exact h.modDa rfl
  split
  · dsimp only
    exact h.modDa rfl
  · exact h

theorem access (r : Request) : State.Accounted u hand (s.access r).1 := by
  have hwords : State.Accounted u hand (s.accessWords r).1 :=
    List.foldlRecOn (motive := fun acc : State × Status => State.Accounted u hand acc.1) _ _ h
      fun _ hacc _ _ => hacc.writeWord _ _
  unfold State.access
  dsimp only
  split
  · exact hwords.issuingPass
  · exact hwords

theorem commitAction (pair : Pair) : State.Accounted u hand (s.commitAction pair).state := by
  unfold State.commitAction
  split
  · exact h
  split
  · exact h
  · exact (h.modDa (f := Da.swap) rfl).handEvent _ _ _ _

theorem stagingCopyAction : State.Accounted u hand s.stagingCopyAction.state := by
  unfold State.stagingCopyAction
  split
  · exact h
  · dsimp only
    exact h.modDa rfl

theorem lockAction : State.Accounted u hand s.lockAction.state := by
  dsimp only [State.lockAction]
  exact h.modDa rfl

theorem clearAllAction (pair : Pair) : State.Accounted u hand (s.clearAllAction pair).state :=
  (h.modDa (f := Da.clearAll) rfl).handEvent _ _ _ _

theorem captureClearAction : State.Accounted u hand s.captureClearAction.state := by
  dsimp only [State.captureClearAction]
  exact h.modDa rfl

theorem counterClearAction : State.Accounted u hand s.counterClearAction.state :=
  ((h.modDa (f := fun d => { d with hits := zeroHits }) rfl).modEv _).modPorts _

end

theorem serveWrite {r : Request} (h : State.Accounted u (r.pair :: hand) s) :
    State.Accounted u hand (s.serveWrite r) := by
  unfold State.serveWrite
  split
  · exact h.answer _
  split
  · exact h.answer _
  split
  · exact h.answer _
  · exact (h.access r).answer _

theorem serveRead {r : Request} (h : State.Accounted u (r.pair :: hand) s) : State.Accounted u hand (s.serveRead r) := by
  unfold State.serveRead
  split
  · exact h.answer _
  split
  · exact h.answer _
  split <;> exact h.respond rfl

theorem serveWriteIf (h : State.Accounted u hand s) (test : Request → Bool) :
    State.Accounted u hand (s.serveWriteIf test) := by
  unfold State.serveWriteIf
  split
  · exact h
  · next hhead =>
    split
    · exact (h.popMu hhead).serveWrite.settle
    · exact h

theorem takeCommand {c : Cmd} {r : Request} {body : CmdResult} (h : State.Accounted u (r.pair :: hand) body.state) :
    State.Accounted u hand (takeCommand c r body) := ((h.record _ _ _).answer _).settle

/-! ### SEGMENT-RESET -/

/-- The write of a SEGMENT-RESET leaves the hand and stands until the completion; the requests left in MU's queue are
answered (R161). -/
theorem startReset {pair : Pair} (h : State.Accounted u (pair :: hand) s) (hcmd : s.mu.cmd = .idle) :
    State.Accounted u hand (s.startReset pair) := by
  have hpair : pair ∈ s.up.live := h.mem_live List.mem_cons_self
  have hup := s.up.setPause_eq
  have hlive : s.up.setPause.live = s.up.live := (congrArg Up.live hup :)
  refine answerAll (pairs := s.mu.queue.map fun q => q.pair) (hand := hand)
    (s := (s.modUp Up.setPause).modMu fun m => { m with cmd := .executing .traffic pair, aborts := m.queue.length, queue := [] })
    ⟨?_, fun q => ?_, ?_, h.answers.trans (.same (congrArg Up.egress hup :) hlive)⟩ .aborted
  · obtain ⟨hplaces, hmatch, hnodup⟩ := h.conserved
    rw [State.modMu_up, State.modUp_up, hup]
    exact ⟨hplaces, hmatch, hnodup⟩
  · have hbalance := h.balance q
    rw [State.resetWrite_idle hcmd] at hbalance
    rw [State.mem_resetWrite (ph := .traffic) (w := pair) rfl, State.modMu_up, State.modUp_up, hlive, if_pos hpair,
      hbalance]
    simp only [State.standing, State.modMu_da, State.modMu_mu, State.modMu_tt, State.modUp_da, State.modUp_tt,
      List.count_append, List.count_cons, List.count_nil, List.map_nil]
    omega
  · exact (State.resetHolds_executing (ph := .traffic) (w := pair) rfl).2 ⟨(congrArg Up.pause hup :), rfl⟩

theorem trafficReset (h : State.Accounted u hand s) {w : Pair} {ph : ResetPhase} (hcmd : s.mu.cmd = .executing ph w) :
    State.Accounted u hand s.trafficReset :=
  ((h.clearTt.answerAll .aborted).modPorts _).modMu_executing (ph' := ph) hcmd hcmd rfl

/-- The completion takes the write in hand, unless its reservation was cancelled (R163, R164). -/
theorem endReset (h : State.Accounted u hand s) : State.Accounted u (s.resetWrite ++ hand) s.endReset := by
  obtain ⟨hconserved, hbalance, -, hanswers⟩ := h
  have hidle : s.endReset.mu.cmd = .idle := rfl
  refine ⟨hconserved, fun q => ?_, (State.resetHolds_idle hidle).2 ⟨rfl, rfl⟩, hanswers.trans (.same rfl rfl)⟩
  have hstanding : s.endReset.standing q = s.standing q := rfl
  have hlive : s.endReset.up.live = s.up.live := rfl
  rw [State.resetWrite_idle hidle, List.count_append, List.count_nil, hstanding, hlive, hbalance]
  omega

theorem completeReset (h : State.Accounted u hand s) {w : Pair} {ph : ResetPhase} (hcmd : s.mu.cmd = .executing ph w) :
    State.Accounted u hand (s.completeReset w) := by
  have htaken := h.endReset
  have hanswered : State.Accounted u hand (s.endReset.answer w .ok) := by
    rw [State.mem_resetWrite hcmd] at htaken
    split at htaken
    · exact htaken.answer .ok
    · next hdead =>
      have hstand : s.endReset.answer w .ok = s.endReset :=
        congrArg (fun v => { s.endReset with up := v }) (Up.respond_dead hdead)
      rw [hstand]
      exact htaken
  have hpause := Up.respond_pause s.up (plainRsp w .ok) false
  exact hanswered.congr (congrArg Up.egress hpause) (congrArg Up.reservations hpause) (congrArg Up.live hpause)
    (congrArg Up.pause hpause) rfl rfl rfl rfl

end State.Accounted

end Sys2Proof.Machine
end

section
/-! PROOF. Every step keeps the account of live requests, and answers each pair that leaves the live set (R136 to R140,
R147, R161): commands that answer, sends, the loss of the upstream link, received frames and resets. -/
namespace Sys2Proof.Machine

/-! ### Requests dropped without an answer -/

/-- With nothing live, queued or standing the account is empty. -/
theorem State.accounted_of_empty {s : State} (hlive : s.up.live = []) (hreservations : s.up.reservations = 0)
    (hegress : s.up.egress = []) (hstanding : ∀ q, s.standing q = 0) (hreset : s.ResetHolds) :
    State.Accounted s.up [] s := by
  refine ⟨by simp [Up.Conserved, hlive, hreservations, hegress], fun q => ?_, hreset, .refl _⟩
  have hwrite : s.resetWrite = [] := by
    rw [State.resetWrite]
    split
    · rfl
    · simp [hlive]
  simp [hlive, hstanding, hwrite]

/-- A reset leaves nothing that stands. -/
theorem State.standing_powerOn {s : State} (hintake : s.da.intake = []) (hqueue : s.mu.queue = [])
    (htt : s.tt = Tt.powerOn) (q : Pair) : s.standing q = 0 := by
  have hheld : Tt.powerOn.heldCount q = 0 := Tt.heldCount_empty rfl q
  simp [State.standing, hintake, hqueue, htt, hheld, Tt.openCount_powerOn]

theorem State.loseTt_openCount (s : State) (q : Pair) : s.loseTt.openCount q = 0 := by
  rw [Tt.openCount, List.countP_eq_zero]
  intro e he
  obtain ⟨e', -, rfl⟩ := List.mem_map.1 he
  split
  · simp
  · next hother => simp [hother]

/-- The loss of the upstream link drops every request that stands (R147). -/
theorem State.loseUpstream_accounted {s : State} (hreset : s.ResetHolds) :
    State.Accounted s.loseUpstream.up [] s.loseUpstream := by
  have hheld : ∀ q, s.loseTt.heldCount q = 0 := Tt.heldCount_empty rfl
  refine State.accounted_of_empty rfl rfl rfl (fun q => ?_) ?_
  · simp [State.standing, State.loseUpstream, hheld, s.loseTt_openCount]
  · cases hcmd : s.mu.cmd with
    | idle =>
      rw [State.resetHolds_idle hcmd] at hreset
      exact (State.resetHolds_idle (s := s.loseUpstream) hcmd).2 hreset
    | executing ph w =>
      rw [State.resetHolds_executing hcmd] at hreset
      exact (State.resetHolds_executing (s := s.loseUpstream) hcmd).2 ⟨hreset.1, rfl⟩

/-! ### Sends and received frames -/

namespace State.Accounted
variable {u : Up} {s : State} (h : State.Accounted u [] s)
include h

/-- Frames sent leave the queue, and no pair the live set. -/
theorem sends {k : Nat} {f : Up → Up} (hf : Up.Sends k s.up (f s.up)) : State.Accounted (f s.up) [] (s.modUp f) := by
  obtain ⟨⟨hplaces, hmatch, hnodup⟩, hbalance, hreset, -⟩ := h
  obtain ⟨hegress, hreservations, hlive, hpause⟩ := hf
  refine ⟨⟨?_, ?_, ?_⟩, fun q => ?_, ?_, .refl _⟩
  · rw [State.modUp_up, hegress, hreservations, List.length_drop]
    omega
  · rw [State.modUp_up, hreservations, hlive]
    exact hmatch
  · rw [State.modUp_up, hlive]
    exact hnodup
  · rw [State.modUp_up, hlive, State.resetWrite, State.modUp_up, hlive]
    exact hbalance q
  · rw [State.ResetHolds, State.modUp_up, hpause]
    exact hreset

/-- An answer at once takes a place of the room and no reservation (R139). -/
theorem answerAtOnce (pair : Pair) (status : Status) (hroom : s.up.room ≠ 0) :
    State.Accounted (s.up.answerAtOnce pair status) [] (s.modUp fun v => v.answerAtOnce pair status) := by
  obtain ⟨⟨hplaces, hmatch, hnodup⟩, hbalance, hreset, -⟩ := h
  refine ⟨⟨?_, hmatch, hnodup⟩, hbalance, hreset, .refl _⟩
  simp only [Up.room] at hroom
  simp only [State.modUp_up, Up.answerAtOnce, List.length_append, List.length_cons, List.length_nil]
  omega

/-- A request accepted becomes live and stands in the intake; no SEGMENT-RESET runs, since the pause is clear (R138). -/
theorem accept {r : Request} (hpause : s.up.pause = false) (hroom : s.up.room ≠ 0) (hdead : r.pair ∉ s.up.live) :
    State.Accounted (s.accept r).up [] (s.accept r) := by
  obtain ⟨⟨hplaces, hmatch, hnodup⟩, hbalance, hreset, -⟩ := h
  have hidle : s.mu.cmd = .idle := by
    cases hcmd : s.mu.cmd with
    | idle => rfl
    | executing ph w =>
      rw [State.resetHolds_executing hcmd, hpause] at hreset
      cases hreset.1
  rw [State.resetHolds_idle hidle] at hreset
  refine ⟨⟨?_, ?_, ?_⟩, fun q => ?_, (State.resetHolds_idle (s := s.accept r) hidle).2 hreset, .refl _⟩
  · simp only [Up.room] at hroom
    simp only [State.accept, State.modDa_up, State.modUp_up, Up.accept]
    omega
  · simp [State.accept, Up.accept, hmatch]
  · exact List.nodup_append.2 ⟨hnodup, List.nodup_singleton _, fun a ha b hb heq =>
      hdead (List.mem_singleton.1 hb ▸ heq ▸ ha)⟩
  · have hq := hbalance q
    rw [State.resetWrite_idle hidle] at hq
    rw [State.resetWrite_idle (s := s.accept r) hidle]
    simp only [State.standing, State.accept, Up.accept, State.modDa_up, State.modUp_up, State.modDa_da, State.modUp_da,
      State.modDa_mu, State.modUp_mu, State.modDa_tt, State.modUp_tt, List.map_append, List.count_append, List.map_cons,
      List.map_nil, List.count_cons, List.count_nil] at hq ⊢
    omega

theorem acceptOrAnswer (f : ReqFields) : State.Accounted (s.acceptOrAnswer f).up [] (s.acceptOrAnswer f) := by
  unfold State.acceptOrAnswer
  split
  · exact (h.modEv _).rebase
  · next hpause =>
    split
    · exact (h.modEv _).rebase
    · next hroom =>
      split
      · exact (h.answerAtOnce _ _ hroom).modEv _
      · split
        · exact (h.answerAtOnce _ _ hroom).modEv _
        · next hdead => exact h.accept (by simpa using hpause) hroom hdead

theorem takeUpFrame (frame : List Word) : State.Accounted (s.takeUpFrame frame).up [] (s.takeUpFrame frame) := by
  unfold State.takeUpFrame
  split
  · split
    · exact (h.modUp (f := Up.useCredit) rfl rfl rfl rfl).acceptOrAnswer _
    all_goals exact (h.modEv _).rebase
  · exact (h.modEv _).rebase

end State.Accounted

/-- A received frame ends no request (R139). -/
theorem State.mem_live_acceptOrAnswer (s : State) (f : ReqFields) {pair : Pair} (h : pair ∈ s.up.live) :
    pair ∈ (s.acceptOrAnswer f).up.live := by
  unfold State.acceptOrAnswer
  split
  · exact h
  split
  · exact h
  split
  · exact h
  split
  · exact h
  · exact List.mem_append_left _ h

theorem State.mem_live_takeUpFrame (s : State) (frame : List Word) {pair : Pair} (h : pair ∈ s.up.live) :
    pair ∈ (s.takeUpFrame frame).up.live := by
  unfold State.takeUpFrame
  split
  · split
    · exact (s.modUp Up.useCredit).mem_live_acceptOrAnswer _ h
    all_goals exact h
  · exact h

theorem State.settle_live (s : State) : s.settle.up.live = s.up.live := (congrArg Up.live s.settle_closes.up :)

theorem State.settle_link (s : State) : s.settle.up.link = s.up.link := (congrArg Up.link s.settle_closes.up :)

theorem execReqFrameReceived_mem_live {s : State} (frame : List Word) {pair : Pair} (h : pair ∈ s.up.live) :
    Ensures (fun t => pair ∈ t.up.live) (execReqFrameReceived frame s) := by
  unfold execReqFrameReceived
  split
  · exact .next h
  · exact .next (by rw [State.settle_live]; exact s.mem_live_takeUpFrame frame h)

/-! ### What a command does to the account -/

/-- Each pair that left the live set has one response queued behind what stood, every other pair none, and frames left the
head only if none did. -/
def State.Discharged (s t : State) : Prop :=
  ∃ (k : Nat) (queued : List UpFrame), t.up.egress = s.up.egress.drop k ++ queued
    ∧ (k = 0 ∨ t.up.live = s.up.live)
    ∧ ∀ pair ∈ s.up.live, queued.countP (fun f => f.answers pair) = if pair ∈ t.up.live then 0 else 1

/-- The commands that may end requests without an answer, or answer a frame that became no request: the resets and the
received frames (R139, R148). -/
def answersRequests : Instr → Bool
  | .por _ | .pinReset _ | .reqFrameReceived _ | .upstreamRspNtfFrame _ => false
  | _ => true

/-- The account stands again after a command; and one that `answers` has answered, unless it lost the upstream link. -/
structure State.KeepsAccount (answers : Bool) (s t : State) : Prop where
  account : State.Accounted t.up [] t
  discharged : answers = true → s.up.link = .linking ∨ t.up.link = .up → State.Discharged s t

namespace State.KeepsAccount
variable {a : Bool} {u : Up} {s t : State}

theorem silent (h : State.Accounted u [] t) : State.KeepsAccount false s t := ⟨h.rebase, nofun⟩

/-- The link lost, nothing is owed an answer (R147). -/
theorem of_lost (h : State.Accounted u [] t) (hs : s.up.link = .up) (ht : t.up.link = .linking) :
    State.KeepsAccount a s t := by
  refine ⟨h.rebase, fun _ hlink => ?_⟩
  rw [hs, ht] at hlink
  rcases hlink with hlink | hlink <;> cases hlink

/-- Answers queued behind what stood, after `k` frames left the head. -/
theorem of_answers {k : Nat} (hnodup : s.up.live.Nodup) (h : State.Accounted u [] t)
    (hegress : u.egress = s.up.egress.drop k) (hlive : u.live = s.up.live) (hk : k = 0 ∨ t.up.live = s.up.live) :
    State.KeepsAccount a s t := by
  refine ⟨h.rebase, fun _ _ => ?_⟩
  obtain ⟨queued, hqueued, hcount⟩ := h.answers.queued (hlive ▸ hnodup)
  refine ⟨k, queued, by rw [hqueued, hegress], hk, fun pair hpair => ?_⟩
  rw [hcount, hlive]
  by_cases hstays : pair ∈ t.up.live <;> simp [hpair, hstays]

theorem of_accounted (hnodup : s.up.live.Nodup) (h : State.Accounted s.up [] t) : State.KeepsAccount a s t :=
  of_answers (k := 0) hnodup h rfl rfl (.inl rfl)

end State.KeepsAccount

theorem Mu.idle_of_head {m : Mu} {r : Request} (hhead : m.head = some r) : m.cmd = .idle := by
  rw [Mu.head] at hhead
  split at hhead
  · assumption
  · cases hhead

section
variable {s : State} {a : Bool} (h : State.Accounted s.up [] s)
include h

theorem State.Accounted.keeps {t : State} (ht : State.Accounted s.up [] t) : State.KeepsAccount a s t :=
  .of_accounted h.conserved.2.2 ht

theorem State.Accounted.keepsSends {k : Nat} {f : Up → Up} (hf : Up.Sends k s.up (f s.up)) :
    State.KeepsAccount a s (s.modUp f).settle := by
  obtain ⟨hegress, hreservations, hlive, hpause⟩ := hf
  exact .of_answers h.conserved.2.2 (h.sends ⟨hegress, hreservations, hlive, hpause⟩).settle hegress hlive
    (.inr ((State.settle_live _).trans hlive))

theorem State.keepsAccount_loseUpstream (hup : s.up.link = .up) : State.KeepsAccount a s s.loseUpstream.settle :=
  .of_lost (State.loseUpstream_accounted h.reset).settle hup (State.settle_link _)

theorem State.keepsAccount_helloFromController (identity : BitVec 4) :
    State.KeepsAccount a s (s.helloFromController identity).settle := by
  unfold State.helloFromController
  split
  · exact h.keeps ((h.modUp (f := Up.enterUp) rfl rfl rfl rfl).handEvent _ _ _ _).settle
  · next hup => exact State.keepsAccount_loseUpstream h hup

/-- A command of the command word, taken when the head carries it. -/
theorem command_keepsAccount {c : Cmd} {action : Request → CmdResult}
    (ha : ∀ r, s.mu.head = some r → State.Accounted s.up [r.pair] (action r).state) :
    Ensures (State.KeepsAccount a s) (match s.mu.head with
      | none => .next s
      | some r => if s.headCarries c r then .next (takeCommand c r (action r)) else .next s) := by
  split
  · exact .next (h.keeps h)
  · next r hhead => exact .guarded (h.keeps h) fun _ => h.keeps (ha r hhead).takeCommand

theorem execTick_keepsAccount : Ensures (State.KeepsAccount a s) (execTick s) := by
  refine .next (h.keeps (h.congr rfl rfl rfl rfl ?_ rfl rfl rfl))
  funext q
  have hopen : ({ s.tt with entries := s.tt.entries.map Entry.tick } : Tt).openCount q = s.tt.openCount q := by
    simp only [Tt.openCount, Table.map, List.countP_map]
    refine List.countP_congr fun e _ => ?_
    have hpair : e.tick.pair = e.pair := by
      unfold Entry.tick
      split <;> rfl
    simp [Entry.tick_state, hpair]
  simp only [State.standing, hopen]
  rfl

theorem execUpstreamLinkLoss_keepsAccount (cause : LossCause) :
    Ensures (State.KeepsAccount a s) (execUpstreamLinkLoss cause s) := by
  cases cause with
  | down arg check => exact .guarded (h.keeps h) fun ⟨_, hup⟩ => State.keepsAccount_loseUpstream h hup
  | symbolLock => exact .guarded (h.keeps h) fun hup => State.keepsAccount_loseUpstream h hup
  | hello arg check => exact .guarded (h.keeps h) fun _ => State.keepsAccount_helloFromController h _

theorem execReqFrameReceived_keepsAccount (frame : List Word) :
    Ensures (State.KeepsAccount false s) (execReqFrameReceived frame s) := by
  unfold execReqFrameReceived
  split
  · exact .next (.silent h)
  · exact .next (.silent (h.takeUpFrame frame).settle)

theorem execDecode_keepsAccount : Ensures (State.KeepsAccount a s) (execDecode s) := by
  cases hintake : s.da.intake with
  | nil =>
    rw [execDecode, hintake]
    exact .next (h.keeps h)
  | cons r rest =>
    rw [execDecode_cons hintake]
    have hoff := (h.takeIntake hintake).handOff (s.verdictOf r)
    have hda := State.handOff_da (s.modDa fun d => { d with intake := rest }) r (s.verdictOf r)
    refine .next (h.keeps (State.Accounted.settle (hoff.congr rfl rfl rfl rfl ?_ rfl rfl rfl)))
    funext q
    simp only [State.standing, hda.1]
    rfl

theorem execDownstreamFrame_keepsAccount (p : PortNo) (frame : List Word) :
    Ensures (State.KeepsAccount a s) (execDownstreamFrame p frame s) := by
  have hbad := h.keeps (a := a) (h.modPort p fun q => { q with bad := satInc q.bad })
  refine .branch (fun _ => .branch (fun _ => ?_) fun _ => .next hbad) fun _ => .next (h.keeps h)
  split
  · exact .next (h.keeps (h.takeFarFrame p .rsp frame).settle)
  · exact .next (h.keeps (h.takeFarFrame p .ntf frame).settle)
  all_goals exact .next hbad

theorem State.helloFromTarget_keepsAccount (p : PortNo) :
    Ensures (State.KeepsAccount a s) (s.helloFromTarget p) := by
  unfold State.helloFromTarget
  split
  · exact .next (h.keeps (h.movePort p _).issuingPass.settle)
  iterate 4 exact .next (h.keeps (h.loseLink p).settle)
  all_goals exact .next (h.keeps h)

theorem execDownstreamLinkLoss_keepsAccount (p : PortNo) (cause : LossCause) :
    Ensures (State.KeepsAccount a s) (execDownstreamLinkLoss p cause s) := by
  cases cause with
  | down arg check => exact .guarded (h.keeps h) fun _ => h.keeps (h.loseLink p).settle
  | symbolLock => exact .guarded (h.keeps h) fun _ => h.keeps (h.loseLink p).settle
  | hello arg check =>
    exact .branch (fun _ => State.helloFromTarget_keepsAccount h p) fun _ => .next (h.keeps h)

theorem execReadyOrWakeReceived_keepsAccount (p : PortNo) (sym : WakeSymbol) (arg : SymArg) (check : SymCheck) :
    Ensures (State.KeepsAccount a s) (execReadyOrWakeReceived p sym arg check s) := by
  refine .branch (fun _ => ?_) fun _ => .next (h.keeps h)
  split
  iterate 2 exact .next (h.keeps (h.movePort p _).issuingPass.settle)
  all_goals exact .next (h.keeps h)

theorem execEntryTimeout_keepsAccount (n : EntryNo) : Ensures (State.KeepsAccount a s) (execEntryTimeout n s) := by
  refine .guarded (h.keeps h) fun ⟨hopened, _⟩ => h.keeps ?_
  have hanswered := (h.takeEntry (e := { s.entry n with
    state := .expired, timer := (s.port (s.entry n).port).timeoutTicks }) hopened nofun).answer .timeout
  exact ((hanswered.withdraw (s.entry n).port n).handEvent _ _ _ _).settle

theorem execQuarantineEnd_keepsAccount (n : EntryNo) :
    Ensures (State.KeepsAccount a s) (execQuarantineEnd n s) := by
  refine .guarded (h.keeps h) fun ⟨hexpired, _⟩ => h.keeps ?_
  have hfreed := h.freeEntry (n := n) (by rw [hexpired]; nofun)
  exact (hfreed.issuingPass.finishDrain _).settle

theorem execManagementRead_keepsAccount : Ensures (State.KeepsAccount a s) (execManagementRead s) := by
  unfold execManagementRead
  split
  · exact .next (h.keeps h)
  · next hhead => exact .guarded (h.keeps h) fun _ => h.keeps (h.popMu hhead).serveRead.settle

theorem execPortEnable_keepsAccount : Ensures (State.KeepsAccount a s) (execPortEnable s) := by
  unfold execPortEnable
  split
  · exact .next (h.keeps h)
  · next hhead =>
    exact .branch (fun _ => .next (h.keeps (((h.popMu hhead).portEnable _).takeCommand (body := portResult _ _))))
      fun _ => .next (h.keeps (h.serveWriteIf _))

theorem execPortDisable_keepsAccount : Ensures (State.KeepsAccount a s) (execPortDisable s) := by
  unfold execPortDisable
  split
  · exact .next (h.keeps h)
  · next hhead =>
    exact .branch (fun _ => .next (h.keeps (((h.popMu hhead).portDisable _).takeCommand (body := portResult _ _))))
      fun _ => .next (h.keeps (h.serveWriteIf _))

theorem execUnknownCommand_keepsAccount : Ensures (State.KeepsAccount a s) (execUnknownCommand s) := by
  unfold execUnknownCommand
  split
  · exact .next (h.keeps h)
  · next hhead =>
    split
    · exact .next (h.keeps h)
    split
    · exact .next (h.keeps h)
    · exact .next (h.keeps (((h.popMu hhead).record _ _ _).answer _).settle)

theorem execSegmentReset_keepsAccount : Ensures (State.KeepsAccount a s) (execSegmentReset s) := by
  unfold execSegmentReset
  split
  · exact .next (h.keeps h)
  · next hhead =>
    exact .guarded (h.keeps h) fun _ =>
      h.keeps ((h.popMu hhead).startReset (s := s.popMu) (Mu.idle_of_head (m := s.mu) hhead)).settle

theorem execTrafficPhase_keepsAccount : Ensures (State.KeepsAccount a s) (execTrafficPhase s) := by
  unfold execTrafficPhase
  split
  · next w hcmd =>
    exact .next (h.keeps ((h.trafficReset hcmd).modMu_executing (ph := .traffic) (ph' := .capture) (w := w) hcmd rfl
      rfl).settle)
  all_goals exact .next (h.keeps h)

theorem execCapturePhase_keepsAccount : Ensures (State.KeepsAccount a s) (execCapturePhase s) := by
  unfold execCapturePhase
  split
  · next w hcmd =>
    have hemptied := h.modDa (f := fun d => { d with cells := d.cells.map Cell.emptied }) rfl
    exact .next (h.keeps (hemptied.modMu_executing (ph := .capture) (ph' := .completion) (w := w) hcmd rfl rfl))
  all_goals exact .next (h.keeps h)

theorem execSegmentResetCompletion_keepsAccount :
    Ensures (State.KeepsAccount a s) (execSegmentResetCompletion s) := by
  unfold execSegmentResetCompletion
  split
  · next hcmd => exact .next (h.keeps (h.completeReset hcmd).settle)
  all_goals exact .next (h.keeps h)

/-- Every command keeps the account. -/
theorem exec_keepsAccount (c : Instr) : Ensures (State.KeepsAccount (answersRequests c) s) (exec c s) := by
  have hwrite : ∀ test, Ensures (State.KeepsAccount true s) (.next (s.serveWriteIf test)) := fun test =>
    .next (h.keeps (h.serveWriteIf test))
  cases c with
  | por straps =>
    refine .next (.silent (State.accounted_of_empty rfl rfl rfl (State.standing_powerOn rfl rfl rfl) ?_))
    exact ⟨rfl, rfl⟩
  | pinReset straps =>
    refine .next (.silent (State.accounted_of_empty rfl rfl rfl (State.standing_powerOn rfl rfl rfl) ?_))
    exact ⟨rfl, rfl⟩
  | tick => exact execTick_keepsAccount h
  -- the upstream link and the egress queue
  | upstreamHelloTimerExpiry => exact .guarded (h.keeps h) fun _ => h.keeps (h.modUp rfl rfl rfl rfl)
  | upstreamHello arg check => exact .guarded (h.keeps h) fun _ => State.keepsAccount_helloFromController h _
  | upstreamLinkLoss cause => exact execUpstreamLinkLoss_keepsAccount h cause
  | reqFrameReceived frame => exact execReqFrameReceived_keepsAccount h frame
  | upstreamRspNtfFrame frame => exact execReqFrameReceived_keepsAccount h frame
  | upstreamGrant arg check =>
    obtain ⟨he, hr, hl, hp⟩ := s.up.takeGrant_sends (grantClass arg) (grantCount arg)
    obtain ⟨k, he', hr', hl', hp'⟩ :=
      Up.sendMany_sends s.up.egress.length (s.up.takeGrant (grantClass arg) (grantCount arg))
    exact .guarded (h.keeps h) fun _ => h.keepsSends (k := k)
      ⟨by rw [he', he, List.drop_zero], hr'.trans hr, hl'.trans hl, hp'.trans hp⟩
  | upstreamPark arg check => exact .guarded (h.keeps h) fun _ => h.keeps (h.modUp rfl rfl rfl rfl).settle
  | upstreamWake arg check =>
    exact .guarded (h.keeps h) fun _ => h.keeps (h.modUp (f := Up.wake) rfl rfl rfl rfl).settle
  | egressSend =>
    obtain ⟨k, hsends⟩ := s.up.sendHead_sends
    exact .guarded (h.keeps h) fun _ => h.keepsSends hsends
  | notificationClaim p => exact .guarded (h.keeps h) fun hclaim => h.keeps (h.takeClaim hclaim).settle
  | eventClaim => exact .guarded (h.keeps h) fun hclaim => h.keeps (h.takeClaim hclaim).settle
  | decode => exact execDecode_keepsAccount h
  -- the ports and the transaction table
  | downstreamFrame p frame => exact execDownstreamFrame_keepsAccount h p frame
  | downstreamGrantReq p arg check => exact .guarded (h.keeps h) fun _ => h.keeps (h.modPort p _)
  | portSend p => exact .next (h.keeps (h.modPort p _))
  | entryTimeout n => exact execEntryTimeout_keepsAccount h n
  | quarantineEnd n => exact execQuarantineEnd_keepsAccount h n
  | portHelloTimerExpiry p => exact .guarded (h.keeps h) fun _ => h.keeps (h.modPort p _)
  | portHelloReceived p arg check =>
    exact .branch (fun _ => State.helloFromTarget_keepsAccount h p) fun _ => .next (h.keeps h)
  | linkTimerExpiry p => exact .guarded (h.keeps h) fun _ => h.keeps (h.movePort p _).settle
  | downstreamLinkLoss p cause => exact execDownstreamLinkLoss_keepsAccount h p cause
  | idleTimerExpiry p => exact .guarded (h.keeps h) fun _ => h.keeps (h.modPort p _).settle
  | readyOrWakeReceived p sym arg check => exact execReadyOrWakeReceived_keepsAccount h p sym arg check
  | wakeTimerExpiry p =>
    exact .guarded (h.keeps h) fun _ => h.keeps ((h.answerHold p .targetLost).movePort p _).settle
  -- the accesses of MU
  | managementRead => exact execManagementRead_keepsAccount h
  | managementWrite => exact hwrite _
  | stagingWrite => exact hwrite _
  | portConfigurationWrite => exact hwrite _
  | eventOverflowClear => exact hwrite _
  -- the commands of the command word
  | commit => exact command_keepsAccount h fun r hhead => (h.popMu hhead).commitAction r.pair
  | stagingCopy => exact command_keepsAccount h fun _ hhead => (h.popMu hhead).stagingCopyAction
  | lock => exact command_keepsAccount h fun _ hhead => (h.popMu hhead).lockAction
  | clearAll => exact command_keepsAccount h fun r hhead => (h.popMu hhead).clearAllAction r.pair
  | portEnable => exact execPortEnable_keepsAccount h
  | portDisable => exact execPortDisable_keepsAccount h
  | portRestart => exact command_keepsAccount h fun _ hhead => (h.popMu hhead).portRestart _
  | captureClear => exact command_keepsAccount h fun _ hhead => (h.popMu hhead).captureClearAction
  | counterClear => exact command_keepsAccount h fun _ hhead => (h.popMu hhead).counterClearAction
  | unknownCommand => exact execUnknownCommand_keepsAccount h
  | segmentReset => exact execSegmentReset_keepsAccount h
  | trafficPhase => exact execTrafficPhase_keepsAccount h
  | capturePhase => exact execCapturePhase_keepsAccount h
  | segmentResetCompletion => exact execSegmentResetCompletion_keepsAccount h

end

theorem State.Accounted.laws {u : Up} {t : State} (h : State.Accounted u [] t) :
    t.up.Conserved ∧ t.LiveInFlight ∧ t.ResetHolds :=
  ⟨h.conserved, State.liveInFlight_iff.2 h.balance, h.reset⟩

/-- Settles O56: the account holds at the start of the step, each command keeps it, and the commands that are neither resets
nor received frames answer what they end. -/
theorem liveRequestsStayAccounted : Obligations.LiveRequestsStayAccounted := by
  intro s t hconserved hlive hreset hstep
  have hstart := State.Accounted.start hconserved hlive hreset
  cases hpending : s.pending with
  | nil =>
    rw [step, hpending] at hstep
    obtain ⟨haccount, hdischarged⟩ : State.KeepsAccount true s t :=
      Ensures.next (P := State.KeepsAccount true s) (hstart.keeps (hstart.modTb Timebase.period)) t hstep
    obtain ⟨hc, hl, hr⟩ := haccount.laws
    exact ⟨hc, hl, hr, fun _ => hdischarged rfl, by simp⟩
  | cons c rest =>
    rw [step, hpending] at hstep
    obtain ⟨haccount, hdischarged⟩ := exec_keepsAccount (s := { s with pending := rest })
      (hstart.congr rfl rfl rfl rfl rfl rfl rfl rfl) c t hstep
    obtain ⟨hc, hl, hr⟩ := haccount.laws
    refine ⟨hc, hl, hr, fun hhead => hdischarged ?_, fun frame hframe pair hpair => ?_⟩
    · cases c with
      | por straps => exact absurd rfl (hhead straps []).1
      | pinReset straps => exact absurd rfl (hhead straps []).2.1
      | reqFrameReceived frame => exact absurd rfl (hhead ⟨0, 0, false⟩ frame).2.2.1
      | upstreamRspNtfFrame frame => exact absurd rfl (hhead ⟨0, 0, false⟩ frame).2.2.2
      | _ => rfl
    · have hreceived := execReqFrameReceived_mem_live (s := { s with pending := rest }) frame hpair
      rcases hframe with hframe | hframe <;> cases hframe
      · exact hreceived t hstep
      · exact hreceived t hstep

end Sys2Proof.Machine
end

section
/-! PROOF. Steps, resets, the tick and the upstream link (R27, R53, R67 to R69, R82, R93 to R98, R113, R117, R129 to R134,
R147, R148, R165, R166, R173 to R175). -/
namespace Sys2Proof.Machine

/-! ### How a command answers -/

/-- A command that makes `m` and then ends its happening. -/
theorem State.closes_of {o : Host.Outcome State Fault Refusal} {m : State} (h : o = .next m.settle) :
    ∃ t, o = .next t ∧ State.Closes m t := ⟨_, h, m.settle_closes⟩

/-- The same, with `m` given by another name. -/
theorem State.closes_of_eq {o : Host.Outcome State Fault Refusal} {m m' : State} (h : o = .next m'.settle) (hm : m' = m) :
    ∃ t, o = .next t ∧ State.Closes m t := State.closes_of (hm ▸ h)

/-- How the happening that made `m'` ends, with `m'` given by another name. -/
theorem State.closes_settle {m m' : State} (h : m' = m) : State.Closes m m'.settle := h ▸ m'.settle_closes

/-- A symbol with its own check passes it (R125). -/
@[simp] theorem symbolOk_symbolCheck (t : SymType) (arg : SymArg) : symbolOk t arg (symbolCheck t arg) = true :=
  decide_eq_true rfl

theorem Up.link_ne_up {u : Up} (h : u.link = .linking) : u.link ≠ .up := by
  rw [h]
  nofun

/-! ### Steps and resets -/

/-- Settles O1, by what a step does with the queue. -/
theorem stepTakesFrontCommand : Obligations.StepTakesFrontCommand := fun c rest s =>
  ⟨fun h => by rw [step, h], fun h => by
    rw [step]
    split
    · rfl
    · next hcons => exact absurd (h.symm.trans hcons) nofun⟩

/-- The power-on state has every power-on value, whatever was sent before and whatever waits. -/
theorem State.powerOn_poweredOn (straps : Straps) {t : State} (hup : ∃ sent, t.up = { Up.powerOn straps.segId with sent := sent })
    (hda : t.da = Da.powerOn straps) (htt : t.tt = Tt.powerOn)
    (hports : ∀ p, ∃ sent, t.port p = { Port.powerOn with sent := sent }) (hmu : t.mu = Mu.powerOn)
    (hev : t.ev = Events.powerOn) (htb : t.tb = Timebase.powerOn) : t.PoweredOn straps := by
  obtain ⟨sent, hup⟩ := hup
  choose kept hports using hports
  exact {
    link := by simp [hup, Up.powerOn, Config.helloInterval]
    credits := by rw [hup]; exact ⟨rfl, rfl, rfl⟩
    flags := by rw [hup]; exact ⟨rfl, rfl, rfl⟩
    egress := by rw [hup]; exact ⟨rfl, rfl, rfl⟩
    banks := by rw [hda]; exact ⟨rfl, rfl, rfl⟩
    bankFlags := by rw [hda]; exact ⟨rfl, rfl⟩
    decode := by simp [hda, Da.powerOn]
    recovery := by rw [hda]; exact ⟨rfl, rfl⟩
    cells := by simp [hda, Da.powerOn, Cell.powerOn]
    table := by simp [State.entry, State.hold, htt, Tt.powerOn]
    ports := fun p => by rw [hports p]; exact ⟨rfl, rfl⟩
    portConfig := fun p => by rw [hports p]; exact ⟨rfl, rfl, rfl, rfl, rfl, rfl⟩
    portTimers := fun p => by rw [hports p]; exact ⟨rfl, rfl, rfl, rfl⟩
    portTraffic := fun p => by rw [hports p]; exact ⟨rfl, rfl, rfl, rfl⟩
    portCounters := fun p => by rw [hports p]; exact ⟨rfl, rfl, rfl, rfl⟩
    management := by rw [hmu]; exact ⟨rfl, rfl, rfl, rfl, rfl⟩
    events := by rw [hev]; exact ⟨rfl, rfl, rfl, rfl⟩
    counters := by simp [hev, Events.powerOn]
    timebase := by rw [htb]; exact ⟨rfl, rfl⟩ }

/-- Settles O2: what POR makes is the power-on state, with the record of what was sent. -/
theorem porLoadsPowerOnValues : Obligations.PorLoadsPowerOnValues := by
  refine ⟨State.powerOn_poweredOn _ ⟨_, rfl⟩ rfl rfl (fun p => ⟨[], ?_⟩) rfl rfl rfl, fun straps s =>
    ⟨_, rfl, State.powerOn_poweredOn _ ⟨_, rfl⟩ rfl rfl (fun p => ⟨(s.port p).sent, ?_⟩) rfl rfl rfl, rfl, fun p => ?_, rfl⟩⟩
  · simp [State.reset, State.powerOn, State.port, Port.powerOn]
  · simp [State.powerOn, State.port, Port.powerOn]
  · simp [State.powerOn, State.port]

/-! What a pin reset makes of each block. -/

theorem Da.pinReset_cell (d : Da) (straps : Straps) (c : CellNo) : (d.pinReset straps).cells.get c =
    { mode := if d.retain then (d.cells.get c).mode else .latch, hold := if d.retain then (d.cells.get c).hold else false,
      full := false, record := .zero, loads := 0#16 } := by
  by_cases hretain : d.retain = true <;> simp [Da.pinReset, hretain, Cell.powerOn, Cell.emptied]

theorem Port.pinReset_default (segId : BitVec 4) (q : Port) :
    Port.pinReset false segId q = { Port.powerOn with sent := q.sent } := rfl

theorem Port.pinReset_disabled (segId : BitVec 4) {q : Port} (h : q.state = .disabled) :
    Port.pinReset true segId q = { Port.powerOn with
      limit := q.limit, respTimeout := q.respTimeout, idleInterval := q.idleInterval,
      wakeTimeout := q.wakeTimeout, linkTimeout := q.linkTimeout, notify := q.notify, sent := q.sent } := by
  simp [Port.pinReset, h]

theorem Port.pinReset_linking (segId : BitVec 4) {q : Port} (h : q.state ≠ .disabled) :
    Port.pinReset true segId q = { Port.powerOn with
      limit := q.limit, respTimeout := q.respTimeout, idleInterval := q.idleInterval,
      wakeTimeout := q.wakeTimeout, linkTimeout := q.linkTimeout, notify := q.notify,
      state := .linking, helloTimer := some 1000, linkTimer := some (1000 * q.linkTimeout.toNat),
      sent := q.sent ++ [helloSymbol segId] } := by
  simp [Port.pinReset, h, Port.enterLinking, Port.powerOn, Config.helloInterval]

/-- Settles O3, block by block. -/
theorem pinResetKeepsByRetainAndLock : Obligations.PinResetKeepsByRetainAndLock := by
  intro straps s
  refine ⟨_, rfl, fun hlock => ?_, fun hlock hretain => ?_, fun hlock hretain => ?_, rfl, rfl, fun n => ?_, rfl, rfl,
    fun c => s.da.pinReset_cell straps c, rfl, fun n => ?_, fun p => ?_, rfl, rfl, fun p hretain => ?_,
    fun p hretain hstate => ?_, fun p hretain hstate => ?_, rfl, rfl, rfl, rfl, fun k => ?_, rfl, rfl, rfl, rfl, rfl, rfl,
    rfl, rfl, rfl⟩
  · simp [Da.pinReset, hlock]
  · simp [Da.pinReset, hlock, hretain]
  · simp [Da.pinReset, hlock, hretain]
  · simp [Da.pinReset]
  · simp [State.entry, Tt.powerOn]
  · simp [State.hold, Tt.powerOn]
  · simp [State.port, hretain, Port.pinReset_default]
  · simp [State.port, hretain, Port.pinReset_disabled (q := s.dp.get p) _ hstate]
  · simp only [State.port, hretain, Table.get_map]
    exact Port.pinReset_linking _ hstate
  · simp [Events.pinReset, Events.powerOn]

/-- Settles O4: a tick passes over the tables row by row. -/
theorem tickCountsEveryTimer : Obligations.TickCountsEveryTimer := by
  intro s
  refine ⟨_, rfl, rfl, rfl, rfl, rfl, fun n hfree => ?_, fun n hrun => ?_, rfl, fun p => ?_, rfl, rfl, rfl, rfl, rfl⟩
  · have htick : (s.entry n).tick = s.entry n := if_pos hfree
    simpa [State.entry] using htick
  · have htick : (s.entry n).tick = { s.entry n with timer := (s.entry n).timer - 1 } := if_neg hrun
    simpa [State.entry] using htick
  · simp only [State.port, Table.get_map]
    rfl

/-! ### The upstream link -/

/-- Settles O5. -/
theorem helloTimersResend : Obligations.HelloTimersResend :=
  ⟨fun _ hlink hdue => if_pos ⟨hlink, hdue⟩, fun _ hnot => if_neg hnot, fun _ _ hlink hdue => if_pos ⟨hlink, hdue⟩,
    fun _ _ hnot => if_neg hnot⟩

theorem State.helloFromController_linking {s : State} (h : s.up.link = .linking) (identity : BitVec 4) :
    s.helloFromController identity = s.linkUp identity := by
  rw [State.helloFromController, h]

theorem State.helloFromController_up {s : State} (h : s.up.link = .up) (identity : BitVec 4) :
    s.helloFromController identity = s.loseUpstream := by
  rw [State.helloFromController, h]

/-- A HELLO from the controller that passes its check. -/
theorem execUpstreamHello_ok (s : State) (arg : SymArg) :
    execUpstreamHello arg (symbolCheck .hello arg) s = .next (s.helloFromController (helloIdentity arg)).settle :=
  if_pos (symbolOk_symbolCheck _ _)

/-- Settles O6: the HELLO finds the link LINKING. -/
theorem controllerHelloBringsLinkUp : Obligations.ControllerHelloBringsLinkUp := fun s arg hlink =>
  State.closes_of_eq (execUpstreamHello_ok s arg) (by
    rw [State.helloFromController_linking hlink, State.linkUp, fieldAt_zero]
    rfl)

/-- Settles O7: each of the four commands loses the link by the one operation. -/
theorem upstreamLossFlushesTraffic : Obligations.UpstreamLossFlushesTraffic := by
  refine fun s a => ⟨fun hup c hc => State.closes_of (m := s.loseUpstream) ?_, fun hlink c hc => ?_⟩
  · simp only [List.mem_cons, List.not_mem_nil, or_false] at hc
    have hhello : execUpstreamHello a (symbolCheck .hello a) s = .next s.loseUpstream.settle := by
      rw [execUpstreamHello_ok, State.helloFromController_up hup]
    rcases hc with rfl | rfl | rfl | rfl
    · exact if_pos hup
    · exact if_pos ⟨symbolOk_symbolCheck _ _, hup⟩
    · exact hhello
    · exact hhello
  · have hnot : s.up.link ≠ .up := Up.link_ne_up hlink
    simp only [List.mem_cons, List.not_mem_nil, or_false] at hc
    rcases hc with rfl | rfl
    · exact if_neg hnot
    · exact if_neg fun h => hnot h.2

end Sys2Proof.Machine
end

section
/-! PROOF. Request intake, the egress queue and the claims (R118 to R145, R170), what EQ keeps, and symbols that fail their
check. -/
namespace Sys2Proof.Machine

/-! ### Request intake -/

theorem wellFormedRequest_of {f : ReqFields} {op : Opcode} (hop : Opcode.ofCode f.opcode = some op)
    (hlow : 1 ≤ f.length.toNat) (hhigh : f.length.toNat ≤ 64) (hpayload : f.payload.length = payloadWords op f.length) :
    wellFormedRequest f = some { pair := f.pair, opcode := op, length := f.length, addr := f.addr, payload := f.payload } := by
  simp only [wellFormedRequest, hop]
  exact if_pos ⟨hlow, hhigh, hpayload⟩

theorem wellFormedRequest_of_malformed {f : ReqFields}
    (h : ∀ op, ¬ (Opcode.ofCode f.opcode = some op ∧ 1 ≤ f.length.toNat ∧ f.length.toNat ≤ 64
      ∧ f.payload.length = payloadWords op f.length)) : wellFormedRequest f = none := by
  unfold wellFormedRequest
  split
  · rfl
  · next op hop => exact if_neg fun ⟨hlow, hhigh, hpayload⟩ => h op ⟨hop, hlow, hhigh, hpayload⟩

section
variable {s : State} {frame : List Word}

theorem execReqFrameReceived_up (hup : s.up.link = .up) :
    execReqFrameReceived frame s = .next (s.takeUpFrame frame).settle := by
  rw [execReqFrameReceived, hup]

theorem State.takeUpFrame_req (hok : frameOk frame = true) (hclass : frameClass frame = some .req) :
    s.takeUpFrame frame = (s.modUp Up.useCredit).acceptOrAnswer (readReq frame) := by
  rw [State.takeUpFrame, if_pos hok, hclass]

theorem State.takeUpFrame_bad (h : frameOk frame = false ∨ frameClass frame ≠ some .req) :
    s.takeUpFrame frame = s.countUpBad := by
  unfold State.takeUpFrame
  split
  · next hok =>
    split
    · next hclass => exact absurd hclass (h.resolve_left (by simp [hok]))
    all_goals rfl
  · rfl

end

section
variable {s : State} {f : ReqFields} (hpause : s.up.pause = false) (hroom : 1 ≤ s.up.room)
include hpause hroom

theorem State.acceptOrAnswer_malformed (h : wellFormedRequest f = none) : s.acceptOrAnswer f =
    (s.modUp (fun u => u.answerAtOnce f.pair .badRequest)).modEv (fun e => { e with upBadRequest := satInc e.upBadRequest }) := by
  rw [State.acceptOrAnswer, if_neg (by simp [hpause]), if_neg (by omega), h]

theorem State.acceptOrAnswer_live {r : Request} (h : wellFormedRequest f = some r) (hlive : r.pair ∈ s.up.live) :
    s.acceptOrAnswer f =
      (s.modUp (fun u => u.answerAtOnce r.pair .tagInUse)).modEv (fun e => { e with upTagInUse := satInc e.upTagInUse }) := by
  rw [State.acceptOrAnswer, if_neg (by simp [hpause]), if_neg (by omega), h]
  exact if_pos hlive

theorem State.acceptOrAnswer_dead {r : Request} (h : wellFormedRequest f = some r) (hdead : r.pair ∉ s.up.live) :
    s.acceptOrAnswer f = s.accept r := by
  rw [State.acceptOrAnswer, if_neg (by simp [hpause]), if_neg (by omega), h]
  exact if_neg hdead

end

/-- Settles O8: the checks of R137 one after another. -/
theorem requestFrameAcceptedOrAnswered : Obligations.RequestFrameAcceptedOrAnswered := by
  intro s frame hup hok hclass hpause hroom f v
  have hpause' : (s.modUp Up.useCredit).up.pause = false := hpause
  have hroom' : 1 ≤ (s.modUp Up.useCredit).up.room := hroom
  refine ⟨_, execReqFrameReceived_up hup, ?_⟩
  rw [State.takeUpFrame_req hok hclass]
  refine ⟨fun hmalformed => State.closes_settle ?_, fun op hop hlow hhigh hpayload => ?_⟩
  · exact State.acceptOrAnswer_malformed hpause' hroom' (wellFormedRequest_of_malformed hmalformed)
  · have hwell := wellFormedRequest_of hop hlow hhigh hpayload
    exact ⟨fun hlive => State.closes_settle (State.acceptOrAnswer_live hpause' hroom' hwell hlive),
      fun hdead => State.closes_settle (State.acceptOrAnswer_dead hpause' hroom' hwell hdead)⟩

/-- Settles O9: both rows take a frame by the one operation. -/
theorem upstreamFrameDiscarded : Obligations.UpstreamFrameDiscarded := by
  intro s frame c hc
  have hexec : exec c s = execReqFrameReceived frame s := by
    simp only [List.mem_cons, List.not_mem_nil, or_false] at hc
    rcases hc with rfl | rfl <;> rfl
  rw [hexec]
  refine ⟨fun hlink => ?_, fun hup hbad => ?_, fun hup hok hclass hfull => ?_⟩
  · rw [execReqFrameReceived, hlink]
  · exact State.closes_of_eq (execReqFrameReceived_up hup) (State.takeUpFrame_bad hbad)
  · refine State.closes_of_eq (execReqFrameReceived_up hup) ((State.takeUpFrame_req hok hclass).trans ?_)
    unfold State.acceptOrAnswer
    rcases hfull with hpause | hroom
    · exact if_pos hpause
    · split
      · rfl
      · exact if_pos hroom

/-! ### The egress queue -/

/-- UP after the first `k` frames of its queue were sent. -/
def Up.sentPrefix (u : Up) (k : Nat) : Up :=
  { (u.egress.take k).foldl Up.spend u with
    egress := u.egress.drop k, sent := u.sent ++ (u.egress.take k).map (fun f => Tx.frame f.words) }

theorem Up.sentPrefix_zero (u : Up) : u.sentPrefix 0 = u := by
  simp [Up.sentPrefix]

/-- Credits are spent whatever is queued and sent. -/
theorem Up.foldl_spend_queue (fs : List UpFrame) (u : Up) (egress : List UpFrame) (sent : List Tx) :
    fs.foldl Up.spend { u with egress := egress, sent := sent }
      = { fs.foldl Up.spend u with egress := egress, sent := sent } := by
  induction fs generalizing u with
  | nil => rfl
  | cons f fs ih =>
    rw [List.foldl_cons, List.foldl_cons, ← ih (u.spend f)]
    cases f <;> rfl

theorem Up.creditFor_queue (u : Up) (f : UpFrame) (egress : List UpFrame) (sent : List Tx) :
    ({ u with egress := egress, sent := sent } : Up).creditFor f = u.creditFor f := by
  cases f <;> rfl

theorem Up.sendHead_cons {u : Up} {f : UpFrame} {rest : List UpFrame} (hqueue : u.egress = f :: rest)
    (hmay : u.headMaySend = true) :
    u.sendHead = { u.spend f with egress := rest, sent := u.sent ++ [.frame f.words] } := by
  unfold Up.sendHead
  split
  · next hnil => rw [hqueue] at hnil; cases hnil
  · next hcons =>
    rw [hqueue] at hcons
    cases hcons
    rw [if_pos hmay]
    cases f <;> rfl

theorem Up.headMaySend_cons {u : Up} {f : UpFrame} {rest : List UpFrame} (hup : u.link = .up)
    (hqueue : u.egress = f :: rest) : u.headMaySend = (u.creditFor f).allows := by
  simp [Up.headMaySend, hqueue, hup]

/-- Sending many takes frames from the head until the head finds no credit. -/
theorem Up.sendMany_prefix (n : Nat) {u : Up} (hup : u.link = .up) (hn : u.egress.length ≤ n) :
    ∃ k ≤ u.egress.length, Up.sendMany n u = u.sentPrefix k
      ∧ (∀ (j : Nat) (f : UpFrame), j < k → u.egress[j]? = some f →
          (((u.egress.take j).foldl Up.spend u).creditFor f).allows = true)
      ∧ (∀ f : UpFrame, u.egress[k]? = some f →
          (((u.egress.take k).foldl Up.spend u).creditFor f).allows = false) := by
  induction n generalizing u with
  | zero =>
    have hnil : u.egress = [] := List.length_eq_zero_iff.1 (by omega)
    exact ⟨0, Nat.zero_le _, by rw [Up.sendMany, Up.sentPrefix_zero], by simp, by simp [hnil]⟩
  | succ n ih =>
    cases hqueue : u.egress with
    | nil => 
      have hmay : ¬ u.headMaySend = true := by simp [Up.headMaySend, hqueue]
      exact ⟨0, Nat.zero_le _, by rw [Up.sendMany, if_neg hmay, Up.sentPrefix_zero], by simp, by simp⟩
    | cons f rest =>
      by_cases hmay : u.headMaySend = true
      · have hhead := Up.sendHead_cons hqueue hmay
        have hallows := Up.headMaySend_cons hup hqueue ▸ hmay
        have hlink : u.sendHead.link = .up := by rw [hhead]; cases f <;> exact hup
        have hrest : u.sendHead.egress = rest := by rw [hhead]
        have hlength : u.sendHead.egress.length ≤ n := by
          rw [hrest]
          simpa [hqueue] using hn
        obtain ⟨k, hk, hsent, hbefore, hstop⟩ := ih hlink hlength
        have hspend : ∀ fs : List UpFrame, fs.foldl Up.spend u.sendHead
            = { fs.foldl Up.spend (u.spend f) with egress := rest, sent := u.sent ++ [.frame f.words] } := fun fs => by
          rw [hhead, Up.foldl_spend_queue]
        simp only [hrest, hspend, Up.creditFor_queue] at hk hbefore hstop
        refine ⟨k + 1, by simpa using hk, ?_, fun j g hj hg => ?_, fun g hg => ?_⟩
        · rw [Up.sendMany, if_pos hmay, hsent]
          simp only [Up.sentPrefix, hrest, hspend, hqueue]
          simp [hhead]
        · cases j with
          | zero =>
            cases hg
            exact hallows
          | succ j => exact hbefore j g (by omega) hg
        · exact hstop g hg
      · refine ⟨0, Nat.zero_le _, ?_, by simp, fun g hg => ?_⟩
        · rw [Up.sendMany, if_neg hmay, Up.sentPrefix_zero]
        · cases hg
          rw [Up.headMaySend_cons hup hqueue] at hmay
          simpa using hmay

/-- A GRANT for RSP or NTF received while UP. -/
theorem execUpstreamGrant_taken {s : State} {arg : SymArg} (hclass : grantClass arg = some .rsp ∨ grantClass arg = some .ntf)
    (hup : s.up.link = .up) : execUpstreamGrant arg (symbolCheck .grant arg) s = .next
      (s.modUp (fun u => Up.sendMany u.egress.length (u.takeGrant (grantClass arg) (grantCount arg)))).settle :=
  if_pos ⟨symbolOk_symbolCheck _ _, hclass, hup⟩

theorem execEgressSend_head {s : State} {f : UpFrame} {rest : List UpFrame} (hup : s.up.link = .up)
    (hqueue : s.up.egress = f :: rest) (hallows : (s.up.creditFor f).allows = true) :
    ∃ t, execEgressSend s = .next t ∧ State.Closes { s with
      up := { s.up.spend f with egress := rest, sent := s.up.sent ++ [.frame f.words] } } t := by
  have hmay : s.up.headMaySend = true := by rw [Up.headMaySend_cons hup hqueue, hallows]
  refine State.closes_of_eq (if_pos hmay) ?_
  rw [State.modUp, Up.sendHead_cons hqueue hmay]

theorem Credit.allows_counted (n : Fin 255) : (Credit.counted n).allows = decide (0 < n.val) := by
  simp [Credit.allows, Nat.pos_iff_ne_zero]

theorem Credit.ofCount_of_lt {c : BitVec 8} {n : Fin 255} (h : c.toNat = n.val) : Credit.ofCount c = .counted n := by
  have hlt : c.toNat < 255 := by omega
  rw [Credit.ofCount, dif_pos hlt]
  exact congrArg Credit.counted (Fin.ext h)

/-- Settles O10: the sends of a GRANT by `Up.sendMany_prefix`, that of EGRESS_SEND at the head. -/
theorem egressQueueSentOnCredit : Obligations.EgressQueueSentOnCredit := by
  refine ⟨fun s arg => ⟨fun v hup hv => ?_, fun hignored => ?_⟩, fun s rest =>
    ⟨fun r hup hqueue hallows => execEgressSend_head hup hqueue hallows,
      fun n hup hqueue hallows => execEgressSend_head hup hqueue hallows, fun hwaits => if_neg ?_,
      fun n => ⟨Credit.allows_counted n, fun m hm => ?_⟩, rfl, rfl, fun c => ⟨fun hc => ?_, fun n => Credit.ofCount_of_lt⟩⟩⟩
  · have hclass : grantClass arg = some .rsp ∨ grantClass arg = some .ntf := hv.imp And.left And.left
    have htake : s.up.takeGrant (grantClass arg) (grantCount arg) = v ∧ v.link = .up ∧ v.egress = s.up.egress
        ∧ v.sent = s.up.sent := by
      rcases hv with ⟨hc, rfl⟩ | ⟨hc, rfl⟩ <;> exact ⟨by rw [hc]; rfl, hup, rfl, rfl⟩
    obtain ⟨hv, hlink, hqueue, hold⟩ := htake
    obtain ⟨k, hk, hsent, hbefore, hstop⟩ := Up.sendMany_prefix v.egress.length hlink le_rfl
    simp only [hqueue] at hk hbefore hstop
    obtain ⟨t, ht, hcloses⟩ := State.closes_of (execUpstreamGrant_taken hclass hup)
    refine ⟨k, t, ht, hk, ?_, hbefore, hstop⟩
    rw [State.modUp, hv, ← hqueue, hsent, Up.sentPrefix, hqueue, hold] at hcloses
    exact hcloses
  · refine if_neg fun ⟨_, hclass, hup⟩ => ?_
    rcases hignored with hlink | hreq | hnone
    · exact Up.link_ne_up hlink hup
    · simp [hreq] at hclass
    · simp [hnone] at hclass
  · rcases hwaits with hlink | hnil | ⟨f, hhead, hno⟩
    · unfold Up.headMaySend
      split <;> simp [hlink]
    · simp [Up.headMaySend, hnil]
    · obtain ⟨tail, hqueue⟩ := List.head?_eq_some_iff.1 hhead
      simp [Up.headMaySend, hqueue, hno]
  · rw [Credit.spend, Credit.counted.injEq] at hm
    rw [← hm]
  · rw [hc]
    rfl

/-- Settles O11. -/
theorem controllerParksAndWakes : Obligations.ControllerParksAndWakes := fun s a => by
  refine ⟨fun hup => ⟨State.closes_of (if_pos ⟨symbolOk_symbolCheck _ _, hup⟩),
    State.closes_of_eq (if_pos ⟨symbolOk_symbolCheck _ _, hup⟩) ?_⟩, fun hlink =>
      ⟨if_neg fun h => Up.link_ne_up hlink h.2, if_neg fun h => Up.link_ne_up hlink h.2⟩⟩
  simp only [State.modUp, Up.wake, Up.grantReq, Up.put, List.append_assoc]
  rfl

/-! ### Claims -/

theorem State.nextClaim_eq_some_iff {s : State} {c : Claimant} : s.nextClaim = some c ↔
    s.up.link = .up ∧ 1 ≤ s.up.room ∧ ∃ before after, claimantsFrom s.up.claim = before ++ c :: after
      ∧ s.waits c = true ∧ ∀ d ∈ before, s.waits d = false := by
  by_cases hroom : s.up.reportsRoom = true
  · have hreports := hroom
    simp only [Up.reportsRoom, Bool.and_eq_true, decide_eq_true_eq] at hreports
    rw [State.nextClaim, if_pos hroom, List.find?_eq_some_iff_append]
    simp only [hreports, true_and, Bool.not_eq_true']
    constructor
    · rintro ⟨hwaits, before, after, hlist, hnone⟩
      exact ⟨before, after, hlist, hwaits, hnone⟩
    · rintro ⟨before, after, hlist, hwaits, hnone⟩
      exact ⟨hwaits, before, after, hlist, hnone⟩
  · rw [State.nextClaim, if_neg hroom]
    simp only [Up.reportsRoom, Bool.and_eq_true, decide_eq_true_eq] at hroom
    exact ⟨nofun, fun ⟨hup, hone, _⟩ => absurd ⟨hup, hone⟩ hroom⟩

/-- The order starts from the claimant after the one before. -/
theorem claimantsFrom_next (c : Claimant) : claimantsFrom c.next = (claimantsFrom c).tail ++ [c] := by
  cases c with
  | events => rfl
  | port p =>
    revert p
    decide

theorem State.takeClaim_port {s : State} {p : PortNo} {n : Ntf} (h : (s.port p).ntfBuf = some n) :
    s.takeClaim (.port p) = { s with
      up := { s.up with egress := s.up.egress ++ [.ntf n], claim := (Claimant.port p).next }
      dp := s.dp.set p { s.port p with ntfBuf := none } } := by
  simp only [State.takeClaim, h]
  rfl

theorem State.takeClaim_events {s : State} {r : EventRecord} {rest : List EventRecord} (h : s.ev.queue = r :: rest) :
    s.takeClaim .events = { s with
      up := { s.up with egress := s.up.egress ++ [.ntf (eventNtf s.up.segId r s.ev.marker)], claim := .port 0 }
      ev := { s.ev with queue := rest, marker := false } } := by
  simp only [State.takeClaim, h]
  rfl

/-- Settles O12. -/
theorem claimsTakenInTurn : Obligations.ClaimsTakenInTurn := fun _ =>
  ⟨fun _ _ hclaim hbuf => State.closes_of_eq (if_pos hclaim) (State.takeClaim_port hbuf),
    fun _ _ hclaim hqueue => State.closes_of_eq (if_pos hclaim) (State.takeClaim_events hqueue),
    fun _ hnot => if_neg hnot, fun hnot => if_neg hnot, fun _ => State.nextClaim_eq_some_iff, rfl, claimantsFrom_next⟩

/-! ### Responses, records and symbols -/

theorem Up.respond_room {u : Up} {r : Rsp} (hlive : r.pair ∈ u.live) (hconserved : u.Conserved) :
    (u.respond r).room = u.room := by
  obtain ⟨hplaces, hmatch, -⟩ := hconserved
  have hpos := List.length_pos_of_mem hlive
  rw [Up.respond_live hlive, Up.room, Up.room]
  simp only [List.length_append, List.length_cons, List.length_nil, Config.egressPlaces]
  omega

/-- Settles O51. -/
theorem responseReleasesReservation : Obligations.ResponseReleasesReservation := fun u r =>
  ⟨fun hlive => ⟨Up.respond_live hlive, fun hconserved => ⟨Up.respond_room hlive hconserved, by
    rw [Up.respond_live hlive]
    exact hconserved.2.2.not_mem_erase, Up.respond_conserved hconserved r⟩⟩, fun hdead => Up.respond_dead hdead⟩

/-- Settles O52: the codes of the kinds are the bits of the mask. -/
theorem eventRecordKeptOrDropped : Obligations.EventRecordKeptOrDropped := by
  intro e r enabled
  have henabled : enabled ↔ e.mask.getLsbD r.kind.code.toNat = true := by
    simp only [enabled]
    cases r.kind <;> exact Iff.rfl
  rw [henabled, Bool.not_eq_true]
  exact ⟨Events.hand_masked, Events.hand_kept, Events.hand_dropped⟩

theorem symbolOk_false {t : SymType} {arg : SymArg} {check : SymCheck} (h : check ≠ symbolCheck t arg) :
    ¬ symbolOk t arg check = true := by simpa [symbolOk] using h

/-- Settles O53: each command of a symbol asks for its check first. -/
theorem symbolFailingCheckIgnored : Obligations.SymbolFailingCheckIgnored := by
  intro s p a k
  simp only [List.mem_cons, List.not_mem_nil, or_false]
  refine ⟨?_, ?_, ?_, fun hk => ?_, fun hk => ?_, fun hk => if_neg (symbolOk_false hk)⟩
  · rintro hk c (rfl | rfl | rfl | rfl) <;> exact if_neg (symbolOk_false hk)
  · rintro hk c (rfl | rfl) <;> exact if_neg fun h => symbolOk_false hk h.1
  · rintro hk c (rfl | rfl) <;> exact if_neg fun h => symbolOk_false hk h.1
  · exact if_neg fun h => symbolOk_false hk h.1
  · exact ⟨if_neg fun h => symbolOk_false hk h.1, if_neg (symbolOk_false hk)⟩

/-- Settles O60: nothing is live, held, issued or captured after reset, and the boot image is valid. -/
theorem resetMeetsEveryLaw : Obligations.ResetMeetsEveryLaw := by
  refine ⟨Image.boot_valid, by decide, by decide, ⟨rfl, rfl⟩, by decide, by decide, by decide, by decide, by decide,
    by decide, by decide, by decide⟩

end Sys2Proof.Machine
end

section
/-! PROOF. The decode: what becomes of the request, the loads, the counts and the records (R1, R13 to R20, R23, R25, R26,
R42 to R48, R74 to R76, R104). -/
namespace Sys2Proof.Machine

/-! ### What becomes of the request (R15 to R19, R74 to R76, R104, R150) -/

/-- The state with `rest` left in the intake. -/
def State.withIntake (s : State) (rest : List Request) : State := { s with da := { s.da with intake := rest } }

section
variable {s : State} {r : Request} {rest : List Request}

/-- The decode laid over what a hand-off makes: it reads neither DA nor EQ of that state. -/
theorem State.withDecode_closes {v : Verdict} {x y : State} (hoff : (s.withIntake rest).handOff r v = y)
    (hx : s.withDecode rest r y = s.withDecode rest r x) :
    State.Closes (s.withDecode rest r x) (s.withDecode rest r ((s.withIntake rest).handOff r v)).settle :=
  State.closes_settle (hoff ▸ hx)

theorem execDecode_verdict {v : Verdict} (hintake : s.da.intake = r :: rest) (hv : s.verdictOf r = v) :
    execDecode s = .next (s.withDecode rest r ((s.withIntake rest).handOff r v)).settle :=
  hv ▸ execDecode_cons hintake

theorem State.takeMgmt_queued (hidle : s.mu.cmd = .idle) (hplace : s.mu.queue.length < 4) :
    s.takeMgmt r = s.modMu fun m => { m with queue := m.queue ++ [r] } := by
  rw [State.takeMgmt, hidle]
  exact if_pos hplace

theorem State.takeMgmt_busy (hidle : s.mu.cmd = .idle) (hfull : 4 ≤ s.mu.queue.length) :
    s.takeMgmt r = s.answer r.pair .busy := by
  rw [State.takeMgmt, hidle]
  exact if_neg (Nat.not_lt.2 hfull)

theorem State.takeMgmt_aborted (hcmd : s.mu.cmd ≠ .idle) :
    s.takeMgmt r = (s.answer r.pair .aborted).modMu fun m => { m with aborts := m.aborts + 1 } := by
  unfold State.takeMgmt
  split
  · rfl
  · next hidle => exact absurd hidle hcmd

/-- The verdict follows from the route where no window is asked. -/
theorem State.verdictOf_of_route {route : Route} (h : s.routeOf r = route) :
    s.verdictOf r = s.da.active.verdict (s.hitsOf r) r route := by
  rw [State.verdictOf, h]

end

/-- Settles O17: the hand-off by the verdict, and for MGMT by the state of MU. -/
theorem decodeAnswersOrHandsToManagement : Obligations.DecodeAnswersOrHandsToManagement := by
  refine fun s r rest => ⟨fun hnil => ?_, fun hintake => ⟨fun st hv => ?_, fun hv hidle hplace => ?_,
    fun hv hidle hfull => ?_, fun hv hcmd => ?_, fun sel sels => ⟨?_, fun hc => State.verdictOf_of_route hc, ?_⟩⟩⟩
  · show execDecode s = .next s
    rw [execDecode, hnil]
  · exact ⟨_, execDecode_verdict hintake hv, State.withDecode_closes rfl rfl⟩
  · exact ⟨_, execDecode_verdict hintake hv,
      State.withDecode_closes (State.takeMgmt_queued (s := s.withIntake rest) hidle hplace) rfl⟩
  · exact ⟨_, execDecode_verdict hintake hv,
      State.withDecode_closes (State.takeMgmt_busy (s := s.withIntake rest) hidle hfull) rfl⟩
  · exact ⟨_, execDecode_verdict hintake hv,
      State.withDecode_closes (State.takeMgmt_aborted (s := s.withIntake rest) hcmd) rfl⟩
  · rintro (h | h) <;> exact State.verdictOf_of_route h
  · rintro (h | h) rfl <;> exact State.verdictOf_of_route h

/-! TT's hand of a decoded port request, by the state of the port. -/

section
variable {s : State} {p : PortNo} {r : Request}

theorem State.takeDecoded_noTarget (h : (s.port p).state = .disabled ∨ (s.port p).state = .linking
      ∨ (s.port p).state = .draining ∨ (s.port p).state = .faulted) : s.takeDecoded p r = s.answer r.pair .noTarget := by
  unfold State.takeDecoded
  rcases h with h | h | h | h <;> rw [h]

theorem State.takeDecoded_parked (h : (s.port p).state = .parked) :
    s.takeDecoded p r = (s.joinHold p r).modPort p Port.enterWaking := by
  rw [State.takeDecoded, h]

theorem State.takeDecoded_waits (h : (s.port p).state = .waking
      ∨ ((s.port p).state = .active ∧ ¬ (s.hold p = [] ∧ s.tt.count p < (s.port p).limit.toNat))
      ∨ ((s.port p).state = .active ∧ s.tt.lowestFree = none)) : s.takeDecoded p r = s.holdOrBusy p r := by
  unfold State.takeDecoded
  rcases h with h | ⟨h, hnot⟩ | ⟨h, hnone⟩ <;> simp only [h]
  · split
    · exact if_neg (by simpa [State.belowLimit] using hnot)
    · rfl
  · rw [hnone]

theorem State.takeDecoded_issues {n : EntryNo} (h : (s.port p).state = .active) (hempty : s.hold p = [])
    (hlimit : s.tt.count p < (s.port p).limit.toNat) (hn : s.tt.lowestFree = some n) :
    s.takeDecoded p r = s.issueInto n p r := by
  unfold State.takeDecoded
  simp only [h, hn]
  exact if_pos (by simp [State.belowLimit, hempty, hlimit])

theorem State.holdOrBusy_held (h : (s.hold p).length < 4) : s.holdOrBusy p r = s.joinHold p r := if_pos h

theorem State.holdOrBusy_busy (h : 4 ≤ (s.hold p).length) : s.holdOrBusy p r = s.answer r.pair .busy :=
  if_neg (Nat.not_lt.2 h)

end

/-- Settles O18, by the state of the port. -/
theorem decodedPortRequestByPortState : Obligations.DecodedPortRequestByPortState := by
  intro s r rest p addr hintake hv r' held st issues
  have hclose : ∀ {x y : State}, (s.withIntake rest).takeDecoded p r' = y →
      s.withDecode rest r y = s.withDecode rest r x → State.Closes (s.withDecode rest r x)
        (s.withDecode rest r ((s.withIntake rest).handOff r (.toPort p addr))).settle :=
    fun h hx => State.withDecode_closes (v := .toPort p addr) h hx
  refine ⟨_, execDecode_verdict hintake hv, fun hst => hclose (State.takeDecoded_noTarget hst) rfl,
    fun hst => hclose (State.takeDecoded_parked hst) rfl, fun hst => ?_,
    fun n hst hissues hn => hclose (State.takeDecoded_issues hst hissues.1 hissues.2 hn) rfl⟩
  have hwaits := State.takeDecoded_waits (s := s.withIntake rest) (p := p) (r := r') hst
  exact ⟨fun hplace => hclose (hwaits.trans (State.holdOrBusy_held hplace)) rfl,
    fun hfull => hclose (hwaits.trans (State.holdOrBusy_busy hfull)) rfl⟩

/-! ### Loads and counts (R20, R23, R42 to R47) -/

section
variable {s t : State} {r : Request} {rest : List Request}

/-- What a DECODE leaves in DA and EQ, whatever became of its request. -/
theorem execDecode_leaves (hintake : s.da.intake = r :: rest) (h : execDecode s = .next t) :
    t.da = (s.withDecode rest r s).da ∧ t.ev = { (s.withDecode rest r s).ev with queue := t.ev.queue, marker := t.ev.marker } := by
  rw [execDecode_verdict hintake rfl] at h
  cases h
  have hcloses := State.settle_closes (s.withDecode rest r ((s.withIntake rest).handOff r (s.verdictOf r)))
  exact ⟨hcloses.da, hcloses.ev⟩

/-- The loading term of a cell is the lowest hitting term that names it (R43). -/
theorem State.loadingTerm_eq_some_iff {c : CellNo} {n : TermNo} : s.da.active.loadingTerm (s.hitsOf r) c = some n ↔
    (n ∈ s.hitsOf r ∧ (s.da.active.terms.get n).capturePresent = true ∧ (s.da.active.terms.get n).cell.toNat = c.val)
    ∧ ∀ m, m < n → ¬ (m ∈ s.hitsOf r ∧ (s.da.active.terms.get m).capturePresent = true
      ∧ (s.da.active.terms.get m).cell.toNat = c.val) := by
  have h := find?_ascending (s.da.active.hitting_sorted s.da.fullCells r) (g := n)
    (f := fun n => (s.da.active.terms.get n).capturePresent && (s.da.active.terms.get n).cell.toNat = c.val)
  simp only [Bool.and_eq_true, decide_eq_true_eq] at h
  exact h

theorem State.loadingTerm_eq_none_iff {c : CellNo} : s.da.active.loadingTerm (s.hitsOf r) c = none ↔
    ∀ n, ¬ (n ∈ s.hitsOf r ∧ (s.da.active.terms.get n).capturePresent = true
      ∧ (s.da.active.terms.get n).cell.toNat = c.val) := by
  simp [Image.loadingTerm, List.find?_eq_none]

theorem satInc16_eq (w : BitVec 16) : satInc16 w = if w = 0xFFFF#16 then 0xFFFF#16 else w + 1 := by
  by_cases h : w = 0xFFFF#16 <;> simp [satInc16, h]

theorem Cell.takes_iff {x : Cell} : x.takes = true ↔ x.hold = false ∧ (x.mode = .track ∨ x.full = false) := by
  simp [Cell.takes]

theorem State.loadedCell_declines {c : CellNo} {x : Cell} (route : Route) (h : x.takes = false) :
    s.loadedCell (s.hitsOf r) r route c x = x := by
  unfold State.loadedCell
  split
  · rfl
  · exact if_neg (by simp [h])

theorem State.loadedCell_loads {c : CellNo} {x : Cell} {n : TermNo} (route : Route)
    (hn : s.da.active.loadingTerm (s.hitsOf r) c = some n) (h : x.takes = true) :
    s.loadedCell (s.hitsOf r) r route c x = x.load (s.captureRecord r route n) := by
  rw [State.loadedCell, hn]
  exact if_pos h

end

/-- Settles O19: the load of a cell by its loading term. -/
theorem captureLoadByModeAndHold : Obligations.CaptureLoadByModeAndHold := by
  intro s t r rest c hintake hexec x names
  have hcell : t.da.cells.get c = s.loadedCell (s.hitsOf r) r (s.routeOf r) c x := by
    rw [(execDecode_leaves hintake hexec).1]
    exact Table.get_imap _ _ _
  have hnames : ∀ n, names n ↔ n ∈ s.hitsOf r ∧ (s.da.active.terms.get n).capturePresent = true
      ∧ (s.da.active.terms.get n).cell.toNat = c.val := fun n => by
    rw [State.hitsOf, Image.mem_hitting]
  rw [hcell]
  refine ⟨fun hnone => ?_, fun hhold => State.loadedCell_declines _ (by simp [Cell.takes, hhold]),
    fun hmode hfull => State.loadedCell_declines _ (by simp [Cell.takes, hmode, hfull]), fun n hn hfirst hhold htakes => ?_⟩
  · simp only [hnames] at hnone
    rw [State.loadedCell, State.loadingTerm_eq_none_iff.2 hnone]
  · simp only [hnames] at hn hfirst
    rw [State.loadedCell_loads _ (State.loadingTerm_eq_some_iff.2 ⟨hn, hfirst⟩) (Cell.takes_iff.2 ⟨hhold, htakes⟩),
      Cell.load, satInc16_eq]
    rfl

/-- Records handed leave the decision counters. -/
theorem Events.foldl_hand_decisions (rs : List EventRecord) (e : Events) :
    (rs.foldl Events.hand e).decisions = e.decisions := by
  induction rs generalizing e with
  | nil => rfl
  | cons r rs ih =>
    rw [List.foldl_cons, ih, Events.hand_frame]

/-- Counters of different places count one each. -/
theorem Events.foldl_countDecision {cs : List DecisionCounter} (hnodup : (cs.map DecisionCounter.index).Nodup) (e : Events)
    (k : Fin 10) : (cs.foldl Events.countDecision e).decisions.get k
      = if k ∈ cs.map DecisionCounter.index then satInc (e.decisions.get k) else e.decisions.get k := by
  induction cs generalizing e with
  | nil => simp
  | cons c cs ih =>
    rw [List.map_cons, List.nodup_cons] at hnodup
    have hcount : (e.countDecision c).decisions.get k
        = if c.index = k then satInc (e.decisions.get k) else e.decisions.get k := by
      rw [Events.countDecision, Table.get_modify]
    rw [List.foldl_cons, ih hnodup.2, hcount]
    by_cases hk : c.index = k
    · subst hk
      simp [hnodup.1]
    · simp [hk, Ne.symm hk]

theorem decisionCounters_nodup (route : Route) (v : Verdict) : ((decisionCounters route v).map DecisionCounter.index).Nodup := by
  have hindex : ∀ sel : Select, (DecisionCounter.select sel).index < 6 := fun sel => by
    cases sel with
    | port p => revert p; decide
    | mgmt => decide
    | reject => decide
  have hother : ∀ sel : Select, ∀ k : Fin 10, 6 ≤ k → (DecisionCounter.select sel).index ≠ k := fun sel k hk h =>
    absurd (hindex sel) (by rw [h]; omega)
  unfold decisionCounters
  split
  · exact List.nodup_singleton _
  · exact List.nodup_cons.2 ⟨by simpa using hother _ _ (by decide), List.nodup_singleton _⟩
  · exact List.nodup_cons.2 ⟨by simpa using hother _ _ (by decide), List.nodup_singleton _⟩
  · exact List.nodup_singleton _
  · exact List.nodup_cons.2 ⟨by simpa using hother _ _ (by decide), List.nodup_singleton _⟩
  · exact List.nodup_singleton _

/-- The counters an asserted select counts in, by whether its window refused the request. -/
theorem decisionCounters_asserted (sel : Select) (v : Verdict) : decisionCounters (.asserted sel) v =
    if v = .refuse .span then [.select sel, .span]
    else if v = .refuse .protectedAccess then [.select sel, .protectedAccess] else [.select sel] := by
  unfold decisionCounters
  split <;> simp_all

theorem satInc_eq (w : Word) : satInc w = if w ≠ 0xFFFFFFFF#32 then w + 1 else w := by
  rw [satInc, ite_not]
  rfl

/-- Settles O20: the hits by the list of hitting terms, the outcome by the counters of its route. -/
theorem decodeCountsHitsAndOutcome : Obligations.DecodeCountsHitsAndOutcome := by
  intro s t r rest hintake hexec
  obtain ⟨hda, hev⟩ := execDecode_leaves hintake hexec
  refine ⟨fun n => ?_, fun cs hcs k => ?_⟩
  · simp only [hda, State.withDecode, Table.get_imap, State.hitsOf, Image.mem_hitting, satInc_eq]
    by_cases hhit : (s.da.active.terms.get n).hits s.da.fullCells r = true <;> simp [hhit]
  · have hcounters : cs = decisionCounters (s.routeOf r) (s.verdictOf r) := by
      cases hroute : s.routeOf r with
      | recovery => rw [hroute] at hcs; exact hcs
      | asserted sel => rw [hroute] at hcs; rw [decisionCounters_asserted]; exact hcs
      | byDefault sel => rw [hroute] at hcs; exact hcs
      | conflict sels => rw [hroute] at hcs; exact hcs
    rw [hev, hcounters]
    simp only [State.withDecode, Events.foldl_hand_decisions,
      Events.foldl_countDecision (decisionCounters_nodup _ _), satInc_eq]
    by_cases hk : k ∈ (decisionCounters (s.routeOf r) (s.verdictOf r)).map DecisionCounter.index <;> simp [hk]

end Sys2Proof.Machine
end

section
/-! PROOF. What a decode does not read (R1), what the boot and empty images decide (R25, R26) and which records a decode
hands (R13, R18, R48). -/
namespace Sys2Proof.Machine

/-! ### The staging image decides nothing (R1) -/

/-- The state with `d` for its decode array. -/
def State.withDa (s : State) (d : Da) : State := { s with da := d }

section
variable (s : State) (d : Da)

theorem State.holdOrBusy_withDa (p : PortNo) (r : Request) :
    (s.withDa d).holdOrBusy p r = (s.holdOrBusy p r).withDa d := by
  by_cases hplace : (s.hold p).length < 4
  · rw [State.holdOrBusy_held hplace, State.holdOrBusy_held (s := s.withDa d) hplace]
    rfl
  · have hfull := Nat.not_lt.1 hplace
    rw [State.holdOrBusy_busy hfull, State.holdOrBusy_busy (s := s.withDa d) hfull]
    rfl

theorem State.takeDecoded_withDa (p : PortNo) (r : Request) :
    (s.withDa d).takeDecoded p r = (s.takeDecoded p r).withDa d := by
  have hhold := s.holdOrBusy_withDa d p r
  unfold State.takeDecoded
  rw [show (s.withDa d).port p = s.port p from rfl, show (s.withDa d).tt = s.tt from rfl]
  split
  iterate 5 rfl
  · exact hhold
  · split
    · rw [show (s.withDa d).hold p = s.hold p from rfl, show (s.withDa d).belowLimit p = s.belowLimit p from rfl]
      split
      · rfl
      · exact hhold
    · exact hhold

theorem State.takeMgmt_withDa (r : Request) : (s.withDa d).takeMgmt r = (s.takeMgmt r).withDa d := by
  unfold State.takeMgmt
  rw [show (s.withDa d).mu = s.mu from rfl]
  split
  · rfl
  · split <;> rfl

/-- The hand-off does not read the decode array. -/
theorem State.handOff_withDa (r : Request) (v : Verdict) : (s.withDa d).handOff r v = (s.handOff r v).withDa d := by
  cases v with
  | toPort p addr => exact s.takeDecoded_withDa d p _
  | toMgmt => exact s.takeMgmt_withDa d r
  | refuse status => rfl

theorem State.takeClaim_withDa (c : Claimant) : (s.withDa d).takeClaim c = (s.takeClaim c).withDa d := by
  cases c with
  | port p =>
    simp only [State.takeClaim]
    rw [show (s.withDa d).port p = s.port p from rfl]
    split <;> rfl
  | events =>
    simp only [State.takeClaim]
    rw [show (s.withDa d).ev = s.ev from rfl]
    split <;> rfl

theorem State.takeClaims_withDa (n : Nat) : State.takeClaims n (s.withDa d) = (State.takeClaims n s).withDa d := by
  induction n generalizing s with
  | zero => rfl
  | succ n ih =>
    rw [State.takeClaims, State.takeClaims, show (s.withDa d).nextClaim = s.nextClaim from rfl]
    split
    · rfl
    · rw [State.takeClaim_withDa, ih]

/-- Nor does the end of a happening. -/
theorem State.settle_withDa : (s.withDa d).settle = s.settle.withDa d := by
  rw [State.settle, State.takeClaims_withDa]
  rfl

end

/-- Settles O21: the verdict, the loads and the records are read from the active image, the hand-off and the end of the
happening read no image. -/
theorem stagingNeverDecides : Obligations.StagingNeverDecides := by
  intro s im
  have hstays : ∀ t, execDecode s = .next t → t.da.staging = s.da.staging := by
    intro t h
    cases hintake : s.da.intake with
    | nil =>
      rw [execDecode, hintake] at h
      cases h
      rfl
    | cons r rest =>
      rw [(execDecode_leaves hintake h).1]
      rfl
  cases hintake : s.da.intake with
  | nil =>
    have hsame : ∀ s : State, s.da.intake = [] → execDecode s = .next s := fun s h => by rw [execDecode, h]
    exact ⟨s, hsame s hintake, rfl, hsame _ hintake⟩
  | cons r rest =>
    have hexec := execDecode_verdict hintake rfl
    refine ⟨_, hexec, hstays _ hexec, ?_⟩
    have hother := execDecode_verdict (s := s.withDa { s.da with staging := im }) hintake rfl
    have hoff := (s.withIntake rest).handOff_withDa { s.da with intake := rest, staging := im } r (s.verdictOf r)
    have hlaid : (s.withDa { s.da with staging := im }).withDecode rest r
        (((s.withIntake rest).withDa { s.da with intake := rest, staging := im }).handOff r (s.verdictOf r))
        = (s.withDecode rest r ((s.withIntake rest).handOff r (s.verdictOf r))).withDa
          { (s.withDecode rest r s).da with staging := im } := by
      rw [hoff]
      rfl
    refine hother.trans (congrArg Host.Outcome.next ((congrArg State.settle hlaid).trans ?_))
    rw [State.settle_withDa, State.settle_da]
    rfl

/-! ### The boot and the empty image (R25, R26) -/

theorem Image.empty_valid : Image.empty.Valid := by decide +kernel

theorem Term.empty_hits (full : BitVec 8) (r : Request) : Term.empty.hits full r = false := by
  simp [Term.hits, Term.empty]

/-- The addresses that agree with the management window under its mask are those from its base on. -/
theorem and_windowMask_eq_iff {a : Word} : a &&& 0xFFFF0000#32 = 0xFFFF0000#32 ↔ 0xFFFF0000 ≤ a.toNat := by
  have hmask : ∀ i : Fin 32, (0xFFFF0000#32).getLsbD i.val = decide (16 ≤ i.val) := by decide
  have hshift : a &&& 0xFFFF0000#32 = (a >>> 16) <<< 16 := by
    refine BitVec.eq_of_getLsbD_eq fun i hi => ?_
    rw [BitVec.getLsbD_and, hmask ⟨i, hi⟩, BitVec.getLsbD_shiftLeft, BitVec.getLsbD_ushiftRight]
    by_cases hhigh : 16 ≤ i
    · simp [hhigh, hi, Nat.add_sub_cancel' hhigh, Nat.not_lt.2 hhigh]
    · simp [hhigh, Nat.not_le.1 hhigh]
  rw [hshift, ← BitVec.toNat_inj]
  simp only [BitVec.toNat_shiftLeft, BitVec.toNat_ushiftRight, Nat.shiftRight_eq_div_pow, Nat.shiftLeft_eq]
  have hlt := a.isLt
  have hbase : (0xFFFF0000#32).toNat = 0xFFFF0000 := rfl
  omega

theorem Term.boot_hits (full : BitVec 8) (r : Request) : Term.boot.hits full r = true ↔ 0xFFFF0000 ≤ r.addr.toNat := by
  have hopcode : (0b111#3).getLsbD r.opcode.code.toNat = true := by cases r.opcode <;> rfl
  have hsource : ∀ src : BitVec 4, (0xFFFF#16).getLsbD src.toNat = true := by decide
  rw [← and_windowMask_eq_iff]
  simp [Term.hits, Term.boot, hopcode, hsource]

theorem Image.boot_term (n : TermNo) : Image.boot.terms.get n = if 0 = n then Term.boot else Term.empty := by
  rw [Image.boot, Table.get_set, Table.get_replicate]

/-- Term 0 alone hits in the boot image, from the base of the management window on. -/
theorem Image.boot_hitting (full : BitVec 8) (r : Request) :
    Image.boot.hitting full r = if 0xFFFF0000 ≤ r.addr.toNat then [0] else [] := by
  have hhits : ∀ n, (Image.boot.terms.get n).hits full r = (decide (n = 0) && decide (0xFFFF0000 ≤ r.addr.toNat)) := by
    intro n
    rw [Image.boot_term, Bool.eq_iff_iff]
    by_cases hn : 0 = n
    · simp [← hn, Term.boot_hits]
    · simp [hn, Ne.symm hn, Term.empty_hits]
  simp only [Image.hitting, hhits]
  split
  · next hin =>
    simp only [hin, decide_true, Bool.and_true]
    rfl
  · next hout => simp [hout]

theorem Image.empty_hitting (full : BitVec 8) (r : Request) : Image.empty.hitting full r = [] := by
  simp [Image.hitting, Image.empty, Term.empty_hits]

/-- With no hit and off the recovery path an image whose default is REJECT refuses. -/
theorem Da.refuses_of_no_hits {d : Da} {r : Request} (hdefault : d.active.defaultSelect = 5#3) (hoff : ¬ d.recovers r = true) :
    d.route [] r = .byDefault .reject :=
  (Da.route_of_none_asserted hoff rfl).trans (congrArg Route.byDefault (Image.defaultSel_of_code (by rw [hdefault]; rfl)))

/-- Settles O22: the hits of each image, and the route that follows. -/
theorem bootImageServesManagementOnly : Obligations.BootImageServesManagementOnly := by
  refine ⟨Image.boot_valid, Image.empty_valid, fun s r => ⟨fun hboot hin => ?_, fun hboot hout => ?_, fun hempty => ?_⟩⟩
  · have hhits : s.hitsOf r = [0] := by rw [State.hitsOf, hboot, Image.boot_hitting, if_pos hin]
    refine ⟨hhits, ?_⟩
    by_cases hrecovers : s.da.recovers r = true
    · exact State.verdictOf_of_route (Da.route_of_recovers hrecovers)
    · have hasserted : s.da.active.assertedSelects (s.hitsOf r) = [.mgmt] := by
        rw [hhits, hboot]
        decide +kernel
      exact State.verdictOf_of_route (Da.route_of_one_asserted hrecovers hasserted)
  · have hhits : s.hitsOf r = [] := by rw [State.hitsOf, hboot, Image.boot_hitting, if_neg (by omega)]
    have hoff : ¬ s.da.recovers r = true := fun h => by
      have := (Da.recovers_iff.1 h).2.2
      omega
    have hroute : s.routeOf r = .byDefault .reject := by
      rw [State.routeOf, hhits, Da.refuses_of_no_hits (by rw [hboot]; rfl) hoff]
    exact ⟨hhits, hroute, State.verdictOf_of_route hroute⟩
  · have hhits : s.hitsOf r = [] := by rw [State.hitsOf, hempty, Image.empty_hitting]
    refine ⟨hhits, fun hoff => ?_⟩
    have hroute : s.routeOf r = .byDefault .reject := by
      rw [State.routeOf, hhits, Da.refuses_of_no_hits (by rw [hempty]; rfl) (by simp [hoff])]
    exact State.verdictOf_of_route hroute

/-! ### The records of a decode (R13, R18, R48) -/

/-- A detail of two fields, the second from bit 8 on, as a number. -/
theorem or_fieldAt_eight_eq {k : Nat} {w : Word} (v : BitVec k) (hk : k ≤ 24) (hw : w.toNat < 256) :
    w ||| fieldAt v 8 = BitVec.ofNat 32 (w.toNat + 256 * v.toNat) := by
  have hpow : 2 ^ k ≤ 2 ^ 24 := Nat.pow_le_pow_right (by decide) hk
  have hv := v.isLt
  refine BitVec.eq_of_toNat_eq ?_
  rw [or_fieldAt_toNat w v 8 (by omega) hw, BitVec.toNat_ofNat]
  omega

theorem countAt_zero_toNat {k n : Nat} (hk : k ≤ 32) (hn : n < 2 ^ k) : (countAt k n 0).toNat = n := by
  rw [countAt_toNat k n 0 hk, Nat.mod_eq_of_lt hn, Nat.pow_zero, Nat.mul_one]

/-- The detail of a CAPTURE record as a number. -/
theorem captureDetail_eq (n : TermNo) (code : BitVec 5) :
    countAt 6 n.val 0 ||| fieldAt code 8 = BitVec.ofNat 32 (n.val + 256 * code.toNat) := by
  have hn : (countAt 6 n.val 0).toNat = n.val := countAt_zero_toNat (by decide) n.isLt
  have hbyte : (countAt 6 n.val 0).toNat < 256 := by omega
  rw [or_fieldAt_eight_eq code (by decide) hbyte, hn]

/-- The loci of the records that a list of cells gives are those of the cells that give one. -/
theorem map_locus_filterMap {f : CellNo → Option EventRecord} (hf : ∀ c e, f c = some e → e.locus = .cell c)
    (l : List CellNo) :
    (l.filterMap f).map (fun e => e.locus) = (l.filter fun c => (f c).isSome).map Locus.cell := by
  induction l with
  | nil => rfl
  | cons c l ih =>
    cases hc : f c with
    | none => simp [hc, ih]
    | some e => simp [hc, ih, hf c e hc]

section
variable {s : State} {r : Request}

/-- A cell gives a CAPTURE record when its loading term offers a load and it is a LATCH cell that takes it. -/
theorem State.captureEvent_eq_some_iff {route : Route} {c : CellNo} {e : EventRecord} :
    s.captureEvent (s.hitsOf r) r route c = some e ↔ ∃ n, s.da.active.loadingTerm (s.hitsOf r) c = some n
      ∧ (s.da.cells.get c).takes = true ∧ (s.da.cells.get c).mode = .latch
      ∧ { kind := .capture, locus := .cell c, pair := some r.pair,
          detail := countAt 6 n.val 0 ||| fieldAt route.recorded.code 8, stamp := s.tb.timestamp } = e := by
  unfold State.captureEvent
  split
  · next hnone => simp [hnone]
  · next n hn => simp [hn, and_assoc]

/-- A CONFLICT has a hitting term that asserts one of its selects (R9, R10). -/
theorem State.asserting_of_conflict {sels : List Select} (h : s.routeOf r = .conflict sels) :
    ∃ n ∈ s.hitsOf r, ∃ sel ∈ sels, (s.da.active.terms.get n).assertsSel sel = true := by
  have hsels : sels = s.da.active.assertedSelects (s.hitsOf r) ∧ sels ≠ [] := by
    rw [State.routeOf, Da.route] at h
    split at h
    · cases h
    · split at h
      · cases h
      · cases h
      · next hne _ => cases h; exact ⟨rfl, hne⟩
  obtain ⟨sel, hsel⟩ := List.exists_mem_of_ne_nil sels hsels.2
  obtain ⟨⟨n, hn, hasserts⟩, -⟩ := Image.asserted_iff.1 (Image.mem_assertedSelects.1 (hsels.1 ▸ hsel))
  exact ⟨n, hn, sel, hsel, hasserts⟩

/-- The CONFLICT record names the lowest hitting term that asserts one of the selects (R18). -/
theorem State.conflictEvent_of_conflict {sels : List Select} (h : s.routeOf r = .conflict sels) :
    ∃ n, (s.conflictEvent (s.hitsOf r) r (.conflict sels)).toList = [⟨.conflict, .term n, some r.pair,
        sels.foldl (fun acc sel => acc ||| (1#32 <<< sel.code.toNat)) 0#32, s.tb.timestamp⟩]
      ∧ (n ∈ s.hitsOf r ∧ ∃ sel ∈ sels, (s.da.active.terms.get n).assertsSel sel = true)
      ∧ ∀ m, m < n → ¬ (m ∈ s.hitsOf r ∧ ∃ sel ∈ sels, (s.da.active.terms.get m).assertsSel sel = true) := by
  obtain ⟨m, hm, hasserting⟩ := State.asserting_of_conflict h
  have hfound : ((s.hitsOf r).find? fun n => sels.any fun sel => (s.da.active.terms.get n).assertsSel sel).isSome = true :=
    List.find?_isSome.2 ⟨m, hm, List.any_eq_true.2 hasserting⟩
  obtain ⟨n, hn⟩ := Option.isSome_iff_exists.1 hfound
  have hlowest := (find?_ascending (s.da.active.hitting_sorted s.da.fullCells r)).1 hn
  simp only [List.any_eq_true] at hlowest
  exact ⟨n, by rw [State.conflictEvent, hn]; rfl, hlowest⟩

end

/-- Settles O23: the records of the cells in their order, then that of a CONFLICT. -/
theorem decodeRecordsCapturesThenConflict : Obligations.DecodeRecordsCapturesThenConflict := by
  intro s r names fills
  have hloads : ∀ {c n}, s.da.active.loadingTerm (s.hitsOf r) c = some n ↔ names c n ∧ ∀ m, m < n → ¬ names c m :=
    State.loadingTerm_eq_some_iff
  refine ⟨(List.finRange 8).filterMap (s.captureEvent (s.hitsOf r) r (s.routeOf r)),
    (s.conflictEvent (s.hitsOf r) r (s.routeOf r)).toList, rfl,
    ⟨_, map_locus_filterMap (fun c e he => ?_) _, (List.pairwise_lt_finRange 8).filter _, fun c => ?_⟩, fun e he => ?_,
    fun sels hroute => hroute ▸ State.conflictEvent_of_conflict hroute, fun hnone => ?_⟩
  · obtain ⟨n, -, -, -, rfl⟩ := State.captureEvent_eq_some_iff.1 he
    rfl
  · rw [List.mem_filter, Option.isSome_iff_exists]
    simp only [List.mem_finRange, true_and, State.captureEvent_eq_some_iff, Cell.takes_iff]
    constructor
    · rintro ⟨-, n, hn, ⟨hhold, htakes⟩, hlatch, -⟩
      exact ⟨⟨n, (hloads.1 hn).1⟩, hhold, hlatch, htakes.resolve_left (by simp [hlatch])⟩
    · rintro ⟨⟨m, hm⟩, hhold, hlatch, hempty⟩
      have hsome : s.da.active.loadingTerm (s.hitsOf r) c ≠ none := fun h => State.loadingTerm_eq_none_iff.1 h m hm
      obtain ⟨n, hn⟩ := Option.ne_none_iff_exists'.1 hsome
      exact ⟨_, n, hn, ⟨hhold, .inr hempty⟩, hlatch, rfl⟩
  · obtain ⟨c, -, hc⟩ := List.mem_filterMap.1 he
    obtain ⟨n, hn, -, -, rfl⟩ := State.captureEvent_eq_some_iff.1 hc
    obtain ⟨hnames, hfirst⟩ := hloads.1 hn
    exact ⟨rfl, rfl, rfl, c, n, rfl, hnames, hfirst, captureDetail_eq n _⟩
  · cases hroute : s.routeOf r with
    | conflict sels => exact absurd hroute (hnone sels)
    | _ => rfl

end Sys2Proof.Machine
end

section
/-! PROOF. What a target sends, the timers of the table and the issuing pass (R71, R75 to R84, R99 to R105, R108, R115,
R118). -/
namespace Sys2Proof.Machine

/-! ### Ports changed twice or not at all -/

theorem Table.modify_modify {α : Type} {n : Nat} (t : Table α n) (i : Fin n) (f g : α → α) :
    (t.modify i f).modify i g = t.modify i (fun a => g (f a)) := by
  simp [Table.modify]

theorem State.modPort_modPort (s : State) (p : PortNo) (f g : Port → Port) :
    (s.modPort p f).modPort p g = s.modPort p (fun q => g (f q)) :=
  congrArg (fun dp => { s with dp := dp }) (s.dp.modify_modify p f g)

theorem State.modPort_same {s : State} {p : PortNo} {f : Port → Port} (h : f (s.port p) = s.port p) :
    s.modPort p f = s := by
  have hdp : s.dp.set p (f (s.dp.get p)) = s.dp := by
    rw [show f (s.dp.get p) = s.dp.get p from h, Table.set_get]
  rw [State.modPort, Table.modify, hdp]

theorem State.modPort_congr {s : State} {p : PortNo} {f g : Port → Port} (h : f (s.port p) = g (s.port p)) :
    s.modPort p f = s.modPort p g :=
  congrArg (fun q => { s with dp := s.dp.set p q }) h

/-! ### A frame received where the link is up (R101, R118) -/

theorem PortState.linkIsUp_iff {st : PortState} :
    st.linkIsUp = true ↔ st = .active ∨ st = .parked ∨ st = .waking ∨ st = .draining := by
  cases st <;> simp [PortState.linkIsUp]

theorem PortState.not_linkIsUp {st : PortState} (h : st = .disabled ∨ st = .linking ∨ st = .faulted) :
    ¬ st.linkIsUp = true := by
  rcases h with rfl | rfl | rfl <;> nofun

section
variable {s : State} {p : PortNo} {frame : List Word}

theorem execDownstreamFrame_taken {c : FrameClass} (hlink : (s.port p).state.linkIsUp = true) (hok : frameOk frame = true)
    (hclass : frameClass frame = some c) (hc : c ≠ .req) :
    execDownstreamFrame p frame s = .next (s.takeFarFrame p c frame).settle := by
  rw [execDownstreamFrame, if_pos hlink, if_pos hok, hclass]
  cases c with
  | req => exact absurd rfl hc
  | rsp => rfl
  | ntf => rfl

theorem execDownstreamFrame_bad (hlink : (s.port p).state.linkIsUp = true)
    (h : frameOk frame = false ∨ frameClass frame = some .req ∨ frameClass frame = none) :
    execDownstreamFrame p frame s = .next (s.modPort p fun q => { q with bad := satInc q.bad }) := by
  rw [execDownstreamFrame, if_pos hlink]
  split
  · next hok =>
    rcases h with hbad | hclass | hclass
    · rw [hbad] at hok
      cases hok
    · rw [hclass]
    · rw [hclass]
  · rfl

/-- Settles O24. -/
theorem downstreamFrameDiscarded : Obligations.DownstreamFrameDiscarded := fun _ _ _ =>
  ⟨fun hdown => if_neg (PortState.not_linkIsUp hdown),
    fun hlink hbad => execDownstreamFrame_bad (PortState.linkIsUp_iff.2 hlink) hbad⟩

/-- A port that hears its target: a running idle timer restarts in ACTIVE (R101, R103). -/
def Port.heard (q : Port) : Port :=
  { q with idleTimer := if q.state = .active then q.idleTimer.map (fun _ => 1000 * q.idleInterval.toNat) else q.idleTimer }

theorem State.takeFarFrame_heard {c : FrameClass} (h : (s.port p).state = .active ∨ (s.port p).state = .draining) :
    s.takeFarFrame p c frame = (s.modPort p Port.heard).takeFrame p c frame := by
  unfold State.takeFarFrame
  rcases h with h | h <;> simp only [h]
  · rw [State.modPort_congr (g := Port.heard)]
    simp [Port.heard, Port.restartIdle, h]
  · have hsame : (s.port p).heard = s.port p := by rw [Port.heard, if_neg (by simp [h])]
    rw [State.modPort_same hsame]

theorem State.takeFarFrame_woken {c : FrameClass} (h : (s.port p).state = .parked ∨ (s.port p).state = .waking) :
    s.takeFarFrame p c frame = ((s.movePort p Port.enterActive).takeFrame p c frame).issuingPass := by
  unfold State.takeFarFrame
  rcases h with h | h <;> simp only [h]

end

/-! ### Responses (R78 to R81) -/

section
variable {s : State} {p : PortNo} {r : TargetRsp}

section
variable {n : EntryNo} (htag : r.tag.toNat = n.val) (hport : (s.entry n).port = p)
include htag hport

theorem State.matchResponse_opened (h : (s.entry n).state = .opened) : s.matchResponse p r = s.takeAnswer p n r := by
  have hlt : r.tag.toNat < 32 := htag ▸ n.isLt
  have hn : (⟨r.tag.toNat, hlt⟩ : EntryNo) = n := Fin.ext htag
  rw [State.matchResponse, dif_pos hlt, hn]
  simp [hport, h]

theorem State.matchResponse_expired (h : (s.entry n).state = .expired) : s.matchResponse p r = s.takeLate p n r := by
  have hlt : r.tag.toNat < 32 := htag ▸ n.isLt
  have hn : (⟨r.tag.toNat, hlt⟩ : EntryNo) = n := Fin.ext htag
  rw [State.matchResponse, dif_pos hlt, hn]
  simp [hport, h]

end

/-- A response is stray when no entry of the port that is not FREE stands under its tag. -/
theorem State.matchResponse_stray (h : ∀ n : EntryNo, n.val = r.tag.toNat → (s.entry n).state ≠ .free → (s.entry n).port ≠ p) :
    s.matchResponse p r = s.takeStray p r.tag := by
  unfold State.matchResponse
  split
  · next hlt =>
    dsimp only
    split
    · next hport =>
      have hfree := not_not.1 fun hne => h ⟨r.tag.toNat, hlt⟩ rfl hne hport
      simp only [hfree]
    · rfl
  · rfl

theorem strayDetail_eq (tag : BitVec 6) (found : BitVec 2) :
    fieldAt tag 0 ||| fieldAt found 8 = BitVec.ofNat 32 (tag.toNat + 256 * found.toNat) := by
  have htag : (fieldAt tag 0).toNat = tag.toNat := by
    rw [fieldAt_toNat _ _ (by decide), Nat.pow_zero, Nat.mul_one]
  have hbyte : (fieldAt tag 0).toNat < 256 := by
    have := tag.isLt
    omega
  rw [or_fieldAt_eight_eq _ (by decide) hbyte, htag]

theorem lateDetail_eq (n : EntryNo) (r : TargetRsp) : countAt 5 n.val 0 ||| fieldAt (lateStatus r) 8
    = BitVec.ofNat 32 (n.val + 256 * ((r.status.getD .targetError).code).toNat) := by
  have hn : (countAt 5 n.val 0).toNat = n.val := countAt_zero_toNat (by decide) n.isLt
  have hbyte : (countAt 5 n.val 0).toNat < 256 := by omega
  rw [or_fieldAt_eight_eq _ (by decide) hbyte, hn, lateStatus]

end

/-- Settles O26: the answer and the late response, each before its issuing pass. -/
theorem responseEndsItsEntry : Obligations.ResponseEndsItsEntry := by
  intro s p n frame hok hclass htag hstate hport heard freed
  have hlink : (s.port p).state.linkIsUp = true := PortState.linkIsUp_iff.2 (by tauto)
  have hexec := execDownstreamFrame_taken hlink hok hclass nofun
  rw [State.takeFarFrame_heard hstate, State.takeFrame] at hexec
  refine ⟨fun hopened => State.closes_of_eq hexec ?_, fun hexpired => State.closes_of_eq hexec ?_⟩
  · refine (State.matchResponse_opened (s := s.modPort p Port.heard) htag hport hopened).trans ?_
    rw [State.takeAnswer]
    refine congrArg (fun m : State => (State.issuingPass m).finishDrain p) ?_
    exact State.modPort_modPort ((s.respond (forwarded (s.entry n) (readRsp frame))).freeEntry n) p Port.heard _
  · refine (State.matchResponse_expired (s := s.modPort p Port.heard) htag hport hexpired).trans ?_
    rw [State.takeLate, lateDetail_eq]
    refine congrArg (fun m : State => (State.issuingPass m).finishDrain p) ?_
    have hlate := State.modPort_modPort (s.freeEntry n) p Port.heard (fun q => { q with late := satInc q.late })
    exact congrArg (fun m : State => m.handEvent .late (.port p) (some (s.entry n).pair) _) hlate

/-- What a stray response found, by its number. -/
theorem State.strayFound_toNat {s : State} {tag : BitVec 6} {found : Nat}
    (h : (31 < tag.toNat ∧ found = 3) ∨ ∃ n : EntryNo, n.val = tag.toNat ∧ (s.entry n).state.code.toNat = found) :
    (s.strayFound tag).toNat = found := by
  unfold State.strayFound
  rcases h with ⟨htag, rfl⟩ | ⟨n, hn, rfl⟩
  · rw [dif_neg (by omega)]
    rfl
  · rw [dif_pos (hn ▸ n.isLt)]
    simp only [← hn]

/-- Settles O27. -/
theorem strayResponseDiscarded : Obligations.StrayResponseDiscarded := by
  intro s p frame found hok hclass hstate hfound
  have hlink : (s.port p).state.linkIsUp = true := PortState.linkIsUp_iff.2 (by tauto)
  have hexec := execDownstreamFrame_taken hlink hok hclass nofun
  rw [State.takeFarFrame_heard hstate, State.takeFrame] at hexec
  have hstray : ∀ n : EntryNo, n.val = (readRsp frame).tag.toNat → (s.entry n).state ≠ .free → (s.entry n).port ≠ p := by
    intro m hm hne
    rcases hfound with ⟨htag, -⟩ | ⟨n, hn, hentry⟩
    · omega
    · obtain rfl : m = n := Fin.ext (hm.trans hn.symm)
      rcases hentry with ⟨hfree, -⟩ | ⟨-, hport, -⟩ | ⟨-, hport, -⟩
      · exact absurd hfree hne
      · exact hport
      · exact hport
  have hcode : (s.strayFound (readRsp frame).tag).toNat = found := by
    refine State.strayFound_toNat (hfound.imp_right ?_)
    rintro ⟨n, hn, ⟨h, rfl⟩ | ⟨h, -, rfl⟩ | ⟨h, -, rfl⟩⟩ <;> exact ⟨n, hn, by rw [h]; rfl⟩
  refine State.closes_of_eq hexec ((State.matchResponse_stray (s := s.modPort p Port.heard) hstray).trans ?_)
  have hcode' : ((s.modPort p Port.heard).strayFound (readRsp frame).tag).toNat = found := hcode
  rw [State.takeStray, strayDetail_eq, hcode', State.modPort_modPort]
  rfl

/-! ### Notifications (R100 to R103, R115) -/

theorem readNtf_malformed {p : PortNo} {frame : List Word} : readNtf p frame = none ↔
    ((headerWord frame).extractLsb' 19 4).toNat < 1 ∨ 8 < ((headerWord frame).extractLsb' 19 4).toNat
      ∨ ((frame.drop 1).dropLast).length ≠ ((headerWord frame).extractLsb' 19 4).toNat := by
  unfold readNtf
  simp only [ite_eq_right_iff, reduceCtorEq, imp_false]
  omega

theorem readNtf_wellFormed {p : PortNo} {frame : List Word} (h : ¬ (((headerWord frame).extractLsb' 19 4).toNat < 1
      ∨ 8 < ((headerWord frame).extractLsb' 19 4).toNat
      ∨ ((frame.drop 1).dropLast).length ≠ ((headerWord frame).extractLsb' 19 4).toNat)) :
    readNtf p frame = some { src := (headerWord frame).extractLsb' 26 4, origin := BitVec.ofNat 3 p.val
                             length := (headerWord frame).extractLsb' 19 4, payload := (frame.drop 1).dropLast } := by
  refine if_pos ?_
  omega

section
variable {q : Port}

theorem Port.takeNotification_draining (hstate : q.state = .draining) (n : Option Ntf) : q.takeNotification n =
    { q with ntfGranted := false, discarded := satInc q.discarded, bad := if n.isNone then satInc q.bad else q.bad } := by
  unfold Port.takeNotification
  exact if_pos hstate

theorem Port.takeNotification_malformed (hstate : q.state ≠ .draining) :
    q.takeNotification none = { q with ntfGranted := false, bad := satInc q.bad } := by
  unfold Port.takeNotification
  exact if_neg hstate

theorem Port.takeNotification_refused (hstate : q.state ≠ .draining) (n : Ntf) (h : q.notify = false ∨ q.ntfBuf ≠ none) :
    q.takeNotification (some n) = { q with ntfGranted := false, discarded := satInc q.discarded } := by
  unfold Port.takeNotification
  refine (if_neg hstate).trans ?_
  rcases h with hnotify | hfull
  · simp [hnotify]
  · simp [Option.isSome_iff_ne_none.2 hfull]

theorem Port.takeNotification_buffered (hstate : q.state ≠ .draining) (n : Ntf) (hnotify : q.notify = true)
    (hempty : q.ntfBuf = none) : q.takeNotification (some n) = { q with ntfGranted := false, ntfBuf := some n } := by
  unfold Port.takeNotification
  refine (if_neg hstate).trans ?_
  simp [hnotify, hempty]

end

/-- Settles O28: what the port makes of the notification, in DRAINING and in ACTIVE. -/
theorem targetNotificationTaken : Obligations.TargetNotificationTaken := by
  intro s p frame hok hclass q len payload malformed heard
  have hmodified : (s.modPort p Port.heard).takeFrame p .ntf frame
      = s.modPort p fun q => q.heard.takeNotification (readNtf p frame) := State.modPort_modPort s p _ _
  have hport : ∀ {a b : Port}, a = b → { s with dp := s.dp.set p a } = { s with dp := s.dp.set p b } := fun h =>
    congrArg (fun q => { s with dp := s.dp.set p q }) h
  have hmalformed : readNtf p frame = none ↔ malformed := readNtf_malformed
  refine ⟨fun hstate => ?_, fun hstate => ?_⟩
  · have hlink : (s.port p).state.linkIsUp = true := PortState.linkIsUp_iff.2 (.inr (.inr (.inr hstate)))
    have hexec := execDownstreamFrame_taken hlink hok hclass nofun
    rw [State.takeFarFrame_heard (.inr hstate), hmodified] at hexec
    have hheard : (s.port p).heard = q := by rw [Port.heard, if_neg (by simp [hstate, q])]
    have hnone : (readNtf p frame).isNone = true ↔ malformed := by rw [Option.isNone_iff_eq_none, hmalformed]
    refine State.closes_of_eq hexec (hport ?_)
    refine (congrArg (fun q => Port.takeNotification q (readNtf p frame)) hheard).trans ?_
    refine (Port.takeNotification_draining hstate _).trans ?_
    exact congrArg (fun w => { q with ntfGranted := false, discarded := satInc q.discarded, bad := w })
      (if_congr hnone rfl rfl)
  · have hlink : (s.port p).state.linkIsUp = true := PortState.linkIsUp_iff.2 (.inl hstate)
    have hexec := execDownstreamFrame_taken hlink hok hclass nofun
    rw [State.takeFarFrame_heard (.inl hstate), hmodified] at hexec
    have hheard : (s.port p).heard = { q with idleTimer := q.idleTimer.map (fun _ => 1000 * q.idleInterval.toNat) } := by
      rw [Port.heard, if_pos hstate]
    have hstays : (s.port p).heard.state ≠ .draining := by
      rw [hheard, hstate]
      nofun
    refine ⟨_, hexec, fun hbad => State.closes_settle (hport ?_), fun hgood hrefused => State.closes_settle (hport ?_),
      fun hgood hnotify hempty => State.closes_settle (hport ?_)⟩
    · refine (congrArg (Port.takeNotification _) (hmalformed.2 hbad)).trans ?_
      exact (Port.takeNotification_malformed hstays).trans (by rw [hheard])
    · refine (congrArg (Port.takeNotification _) (readNtf_wellFormed hgood)).trans ?_
      exact (Port.takeNotification_refused hstays _ hrefused).trans (by rw [hheard])
    · refine (congrArg (Port.takeNotification _) (readNtf_wellFormed hgood)).trans ?_
      exact (Port.takeNotification_buffered hstays _ hnotify hempty).trans (by rw [hheard])

/-! ### A PARKED or WAKING port woken by its target (R78, R101, R103, R105) -/

/-- Entry to ACTIVE with its record. -/
theorem State.movePort_enterActive (s : State) (p : PortNo) : s.movePort p Port.enterActive = { s with
    dp := s.dp.set p { s.port p with
      state := .active, reason := .noFault, linkTimer := none, helloTimer := none, wakeTimer := none }
    ev := s.ev.hand ⟨.portState, .port p, none, BitVec.ofNat 32 (2 + 16 * (s.port p).state.code.toNat),
      s.tb.timestamp⟩ } := by
  rw [State.movePort_eq]
  rfl

/-- A port set and then changed is set to what the change makes of it. -/
theorem State.modPort_of_set (s : State) (p : PortNo) (q : Port) (e : Events) (f : Port → Port) :
    ({ s with dp := s.dp.set p q, ev := e } : State).modPort p f = { s with dp := s.dp.set p (f q), ev := e } := by
  simp [State.modPort, Table.modify]

theorem execReadyOrWake_wakes {s : State} {p : PortNo} (sym : WakeSymbol) (arg : SymArg)
    (h : (s.port p).state = .parked ∨ (s.port p).state = .waking) :
    execReadyOrWakeReceived p sym arg (symbolCheck (wakeSymType sym) arg) s
      = .next (s.movePort p Port.enterActive).issuingPass.settle := by
  rw [execReadyOrWakeReceived, if_pos (symbolOk_symbolCheck _ _)]
  rcases h with h | h <;> rw [h]

theorem execReadyOrWake_ignored {s : State} {p : PortNo} (sym : WakeSymbol) (arg : SymArg) (check : SymCheck)
    (hparked : (s.port p).state ≠ .parked) (hwaking : (s.port p).state ≠ .waking) :
    execReadyOrWakeReceived p sym arg check s = .next s := by
  unfold execReadyOrWakeReceived
  split
  · split
    · next h => exact absurd h hparked
    · next h => exact absurd h hwaking
    all_goals rfl
  · rfl

/-- Settles O29: the port is moved, then what woke it is taken. -/
theorem farEndWakesPort : Obligations.FarEndWakesPort := by
  intro s p a q woken moved
  have hmove := s.movePort_enterActive p
  refine ⟨fun hstate => ⟨fun c hc => ?_, fun frame hok hclass hfree => ?_, fun frame hok hclass => ?_⟩,
    fun hparked hwaking => ⟨execReadyOrWake_ignored .ready _ _ hparked hwaking,
      execReadyOrWake_ignored .wake _ _ hparked hwaking⟩⟩
  · simp only [List.mem_cons, List.not_mem_nil, or_false] at hc
    rcases hc with rfl | rfl
    · exact State.closes_of_eq (execReadyOrWake_wakes .ready a hstate) (congrArg State.issuingPass hmove)
    · exact State.closes_of_eq (execReadyOrWake_wakes .wake a hstate) (congrArg State.issuingPass hmove)
  · have hlink : (s.port p).state.linkIsUp = true := PortState.linkIsUp_iff.2 (.inr (hstate.imp_right .inl))
    have hexec := execDownstreamFrame_taken hlink hok hclass nofun
    rw [State.takeFarFrame_woken hstate] at hexec
    have hstray := State.matchResponse_stray (s := s.movePort p Port.enterActive) (p := p) (r := readRsp frame)
      fun n _ => hfree n
    refine State.closes_of_eq hexec (congrArg State.issuingPass (hstray.trans ?_))
    rw [State.takeStray, strayDetail_eq, hmove, State.modPort_of_set]
    rfl
  · have hlink : (s.port p).state.linkIsUp = true := PortState.linkIsUp_iff.2 (.inr (hstate.imp_right .inl))
    have hexec := execDownstreamFrame_taken hlink hok hclass nofun
    rw [State.takeFarFrame_woken hstate] at hexec
    refine State.closes_of_eq hexec (congrArg State.issuingPass ?_)
    rw [hmove]
    exact s.modPort_of_set p woken moved _

/-! ### The timers of the table (R82 to R84, R108) -/

theorem timeoutDetail_eq (n : EntryNo) : countAt 5 n.val 0 = BitVec.ofNat 32 n.val := by
  refine BitVec.eq_of_toNat_eq ?_
  rw [countAt_zero_toNat (by decide) n.isLt, BitVec.toNat_ofNat]
  omega

/-- The end of a drain, by the entries that name the port (R108). -/
theorem State.finishDrain_of_free {s : State} {p : PortNo} (hstate : (s.port p).state = .draining)
    (hfree : ∀ m : EntryNo, (s.entry m).state ≠ .free → (s.entry m).port ≠ p) : s.finishDrain p = { s with
      dp := s.dp.set p { s.port p with
        state := .disabled, reason := .noFault, linkTimer := none, helloTimer := none, idleTimer := none,
        wakeTimer := none, credit := .zero, ntfGranted := false, sent := (s.port p).sent ++ [plainSymbol .down] }
      ev := s.ev.hand ⟨.portState, .port p, none, BitVec.ofNat 32 (16 * 5), s.tb.timestamp⟩ } := by
  rw [State.finishDrain_done hstate (Tt.count_eq_zero.2 hfree), State.movePort_eq, hstate]
  rfl

theorem not_and_of_ne_or_ne {a b : Prop} (h : ¬ a ∨ ¬ b) : ¬ (a ∧ b) := fun hab => h.elim (· hab.1) (· hab.2)

/-- Settles O30. -/
theorem entryTimersExpireThenFree : Obligations.EntryTimersExpireThenFree := by
  refine ⟨fun s n => ⟨fun hopened hdue => ?_, fun hnot => if_neg (not_and_of_ne_or_ne hnot)⟩,
    fun s n => ⟨fun hexpired hdue => State.closes_of (if_pos ⟨hexpired, hdue⟩),
      fun hnot => if_neg (not_and_of_ne_or_ne hnot), fun p => ⟨State.finishDrain_of_free, State.finishDrain_state,
        fun ⟨m, hbusy, hport⟩ => State.finishDrain_count fun hcount => Tt.count_eq_zero.1 hcount m hbusy hport⟩⟩⟩
  refine State.closes_of_eq (if_pos ⟨hopened, hdue⟩) ?_
  rw [timeoutDetail_eq]
  rfl

/-! ### The issuing pass (R71, R75 to R77) -/

/-- Settles O31, by one round and by the end of the pass. -/
theorem issuingPassServesWaitingPorts : Obligations.IssuingPassServesWaitingPorts := by
  intro s
  refine ⟨fun p hactive => ?_, fun p n r rest hp hn hr => ?_, fun hstop => State.passRounds_stop _ hstop, fun p => ?_,
    fun n => Tt.lowestFree_eq_some, rfl, by decide⟩
  · rcases State.passRounds_ends s.tt.freeCount_le with hnone | hfull
    · have hidle : ¬ s.issuingPass.eligible p = true := by simp [State.issuingPass, State.arbiterChoice_eq_none.1 hnone p]
      rw [State.eligible_iff] at hidle
      by_cases hempty : s.issuingPass.hold p = []
      · exact .inl hempty
      · exact .inr (.inl (Nat.not_lt.1 fun hlimit => hidle ⟨hactive, hempty, hlimit⟩))
    · exact .inr (.inr (Tt.lowestFree_eq_none.1 hfull))
  · have hcount := State.issued_freeCount p r rest hn
    have hle := s.tt.freeCount_le
    calc s.issuingPass = State.passRounds 31 (s.issued n p r rest) := State.passRounds_succ 31 hp hn hr
      _ = (s.issued n p r rest).issuingPass := (State.passRounds_enough (k := 31) (by omega)).symm
  · rw [State.arbiterChoice, List.find?_eq_some_iff_append]
    simp only [← State.eligible_iff, Bool.not_eq_true']
    constructor
    · rintro ⟨heligible, before, after, hlist, hnone⟩
      exact ⟨before, after, hlist, heligible, by simpa using hnone⟩
    · rintro ⟨before, after, hlist, heligible, hnone⟩
      exact ⟨heligible, before, after, hlist, by simpa using hnone⟩

end Sys2Proof.Machine
end

section
/-! PROOF. The downstream ports: sends, timers, bring-up, parking and the loss of a link (R87, R98 to R103, R105 to R107,
R126). -/
namespace Sys2Proof.Machine

/-! ### Sends (R99, R126) -/

/-- The port after the first `k` requests of its slot were sent. -/
def Port.sentPrefix (q : Port) (k : Nat) : Port :=
  { q with
    credit := Credit.spend^[k] q.credit
    slot := q.slot.drop k
    idleTimer := if k = 0 then q.idleTimer else q.idleTimer.map (fun _ => 1000 * q.idleInterval.toNat)
    sent := q.sent ++ (q.slot.take k).map (fun i => Tx.frame (requestWords i)) }

theorem Port.sentPrefix_zero (q : Port) : q.sentPrefix 0 = q := by
  simp [Port.sentPrefix]

section
variable {q : Port}

theorem Port.headMaySend_cons {i : SlotItem} {rest : List SlotItem} (hstate : q.state = .active ∨ q.state = .draining)
    (hslot : q.slot = i :: rest) : q.headMaySend = q.credit.allows := by
  simp [Port.headMaySend, hstate, hslot]

theorem Port.headMaySend_state (hactive : q.state ≠ .active) (hdraining : q.state ≠ .draining) : ¬ q.headMaySend = true := by
  simp [Port.headMaySend, hactive, hdraining]

theorem Port.sendHead_cons {i : SlotItem} {rest : List SlotItem} (hslot : q.slot = i :: rest) (hmay : q.headMaySend = true) :
    q.sendHead = { q with
      slot := rest, credit := q.credit.spend, idleTimer := q.idleTimer.map (fun _ => 1000 * q.idleInterval.toNat)
      sent := q.sent ++ [.frame (requestWords i)] } := by
  unfold Port.sendHead
  split
  · next hnil => rw [hslot] at hnil; cases hnil
  · next hcons =>
    rw [hslot] at hcons
    cases hcons
    rw [if_pos hmay]
    rfl

theorem Port.sendHead_none (hmay : ¬ q.headMaySend = true) : q.sendHead = q := by
  unfold Port.sendHead
  split
  · rfl
  · rw [if_neg hmay]

theorem Port.sendMany_none (n : Nat) (hmay : ¬ q.headMaySend = true) : Port.sendMany n q = q := by
  cases n with
  | zero => rfl
  | succ n => rw [Port.sendMany, if_neg hmay]

end

/-- A send from the head before those that follow makes one send more. -/
theorem Port.sentPrefix_sendHead {q : Port} {i : SlotItem} {rest : List SlotItem} (hslot : q.slot = i :: rest)
    (hmay : q.headMaySend = true) (k : Nat) : q.sendHead.sentPrefix k = q.sentPrefix (k + 1) := by
  rw [Port.sendHead_cons hslot hmay]
  simp only [Port.sentPrefix, hslot, Option.map_map, Function.comp_def, ite_self, List.drop_succ_cons, List.take_succ_cons,
    List.map_cons, List.append_assoc, List.singleton_append, Function.iterate_succ_apply, Nat.add_one_ne_zero, if_false]

/-- Sending many takes requests from the head until the credit stops them. -/
theorem Port.sendMany_prefix (n : Nat) {q : Port} (hstate : q.state = .active ∨ q.state = .draining)
    (hn : q.slot.length ≤ n) : ∃ k ≤ q.slot.length, Port.sendMany n q = q.sentPrefix k
      ∧ (∀ j, j < k → (Credit.spend^[j] q.credit).allows = true)
      ∧ (k < q.slot.length → (Credit.spend^[k] q.credit).allows = false) := by
  induction n generalizing q with
  | zero => exact ⟨0, Nat.zero_le _, by rw [Port.sendMany, Port.sentPrefix_zero], nofun, fun h => by omega⟩
  | succ n ih =>
    by_cases hmay : q.headMaySend = true
    · cases hslot : q.slot with
      | nil => simp [Port.headMaySend, hslot] at hmay
      | cons i rest =>
        have hhead := Port.sendHead_cons hslot hmay
        have hallows := Port.headMaySend_cons hstate hslot ▸ hmay
        have hrest : q.sendHead.slot = rest := by rw [hhead]
        have hcredit : q.sendHead.credit = q.credit.spend := by rw [hhead]
        have hstate' : q.sendHead.state = .active ∨ q.sendHead.state = .draining := by rw [hhead]; exact hstate
        obtain ⟨k, hk, hsent, hbefore, hstop⟩ := ih hstate' (by rw [hrest]; simpa [hslot] using hn)
        rw [hrest] at hk hstop
        rw [hcredit] at hbefore hstop
        refine ⟨k + 1, Nat.succ_le_succ hk, ?_, fun j hj => ?_, fun h => hstop (Nat.lt_of_succ_lt_succ h)⟩
        · rw [Port.sendMany, if_pos hmay, hsent, Port.sentPrefix_sendHead hslot hmay]
        · cases j with
          | zero => exact hallows
          | succ j => exact hbefore j (by omega)
    · refine ⟨0, Nat.zero_le _, by rw [Port.sendMany_none _ hmay, Port.sentPrefix_zero], nofun, fun h => ?_⟩
      obtain ⟨i, rest, hslot⟩ := List.exists_cons_of_length_pos h
      rw [Port.headMaySend_cons hstate hslot] at hmay
      simpa using hmay

/-- Settles O32: the sends of a GRANT by `Port.sendMany_prefix`, that of PORT_SEND at the head. -/
theorem sendSlotSentOnCredit : Obligations.SendSlotSentOnCredit := by
  refine ⟨fun s p arg => ?_, fun s p => ?_, fun c => ⟨fun hc => by rw [hc]; rfl, fun n => Credit.ofCount_of_lt⟩⟩
  · intro q v live
    have hlive : q.state.linkIsUp = true ↔ live := PortState.linkIsUp_iff
    refine ⟨fun hup hclass => ?_, fun hignored => if_neg fun ⟨_, hclass, hup⟩ => ?_⟩
    · have hexec : execDownstreamGrantReq p arg (symbolCheck .grant arg) s = .next (s.modPort p fun q =>
          Port.sendMany q.slot.length { q with credit := Credit.ofCount (grantCount arg) }) :=
        if_pos ⟨symbolOk_symbolCheck _ _, hclass, hlive.2 hup⟩
      have hset : ∀ {k}, Port.sendMany q.slot.length { q with credit := v } = ({ q with credit := v } : Port).sentPrefix k →
          execDownstreamGrantReq p arg (symbolCheck .grant arg) s
            = .next { s with dp := s.dp.set p (({ q with credit := v } : Port).sentPrefix k) } := fun h =>
        hexec.trans (congrArg (fun q => Host.Outcome.next { s with dp := s.dp.set p q }) h)
      by_cases hsends : q.state = .active ∨ q.state = .draining
      · obtain ⟨k, hk, hsent, hbefore, hstop⟩ :=
          Port.sendMany_prefix q.slot.length (q := { q with credit := v }) hsends le_rfl
        refine ⟨k, hk, hset hsent, hbefore, fun _ => hstop, fun h => ?_⟩
        rcases hsends with h' | h' <;> rw [h'] at h <;> simp at h
      · rw [not_or] at hsends
        have hnone := Port.sendMany_none q.slot.length (Port.headMaySend_state (q := { q with credit := v }) hsends.1 hsends.2)
        refine ⟨0, Nat.zero_le _, hset (hnone.trans (Port.sentPrefix_zero _).symm), nofun, fun h => ?_, fun _ => rfl⟩
        exact absurd h (not_or.2 hsends)
    · exact hignored.elim (· (hlive.1 hup)) (· hclass)
  · refine ⟨fun i rest hstate hslot hallows => ?_, fun hnot => ?_⟩
    · have hmay : (s.port p).headMaySend = true := by rw [Port.headMaySend_cons hstate hslot, hallows]
      exact congrArg (fun q => Host.Outcome.next { s with dp := s.dp.set p q }) (Port.sendHead_cons hslot hmay)
    · refine congrArg Host.Outcome.next (State.modPort_same (Port.sendHead_none ?_))
      rcases hnot with ⟨hactive, hdraining⟩ | hnil | hno
      · exact Port.headMaySend_state hactive hdraining
      · simp [Port.headMaySend, hnil]
      · simp [Port.headMaySend, hno]

/-! ### Timers (R98, R103, R105) -/

/-- A port faulted with its record, from the state it stood in. -/
theorem State.movePort_enterFaulted {s : State} {p : PortNo} {left : PortState} (h : (s.port p).state = left)
    (why : FaultReason) : s.movePort p (Port.enterFaulted why) = { s with
      dp := s.dp.set p { s.port p with
        state := .faulted, reason := why, linkTimer := none, helloTimer := none, idleTimer := none, wakeTimer := none
        credit := .zero, ntfGranted := false }
      ev := s.ev.hand ⟨.portState, .port p, none,
        BitVec.ofNat 32 (6 + 16 * left.code.toNat + 256 * why.code.toNat), s.tb.timestamp⟩ } := by
  rw [State.movePort_eq, h]
  rfl

/-- Settles O33. -/
theorem timersRunOutFaultPort : Obligations.TimersRunOutFaultPort := by
  intro s p q faulted event
  refine ⟨fun hstate hdue => ?_, fun hstate hdue => ?_, fun hnot => if_neg (not_and_of_ne_or_ne hnot),
    fun hnot => if_neg (not_and_of_ne_or_ne hnot)⟩
  · exact State.closes_of_eq (if_pos ⟨hstate, hdue⟩) (State.movePort_enterFaulted hstate _)
  · refine State.closes_of_eq (if_pos ⟨hstate, hdue⟩) 
      ((State.movePort_enterFaulted (s := s.answerHold p .targetLost) hstate _).trans ?_)
    rw [State.answerHold_eq]
    rfl

theorem State.idleHolds_iff {s : State} {p : PortNo} : s.idleHolds p = true ↔ (s.port p).state = .active
    ∧ (∀ n : EntryNo, (s.entry n).state ≠ .free → (s.entry n).port ≠ p) ∧ s.hold p = []
    ∧ (s.port p).idleInterval ≠ 0#8 := by
  have hcount : s.tt.count p = 0 ↔ ∀ n : EntryNo, (s.entry n).state ≠ .free → (s.entry n).port ≠ p := Tt.count_eq_zero
  simp [State.idleHolds, hcount, and_assoc]

/-- Settles O36. -/
theorem idlePortParks : Obligations.IdlePortParks := by
  intro s p q idle
  have hidle : s.idleHolds p = true ↔ idle := State.idleHolds_iff
  refine ⟨fun hdue h => State.closes_of (if_pos ⟨hdue, hidle.2 h⟩), fun hnot => if_neg fun ⟨hdue, h⟩ => ?_⟩
  exact hnot.elim (· hdue) (· (hidle.1 h))

/-! ### Bring-up and loss of a link (R87, R98, R100, R106, R107) -/

/-- Both rows that carry a HELLO from a target take it by the one operation. -/
theorem exec_targetHello (s : State) (p : PortNo) (a : SymArg) {c : Instr}
    (hc : c ∈ ([.portHelloReceived p a (symbolCheck .hello a), .downstreamLinkLoss p (.hello a (symbolCheck .hello a))] : List Instr)) :
    exec c s = s.helloFromTarget p := by
  simp only [List.mem_cons, List.not_mem_nil, or_false] at hc
  rcases hc with rfl | rfl <;> exact if_pos (symbolOk_symbolCheck _ _)

/-- Settles O34. -/
theorem targetHelloActivatesPort : Obligations.TargetHelloActivatesPort := by
  intro s p a q
  refine ⟨fun hstate c hc => ?_, fun hstate => ?_⟩
  · have hexec : exec c s
        = .next (s.movePort p (fun q => q.enterActive.put (grantSymbol .rsp 255#8))).issuingPass.settle := by
      rw [exec_targetHello s p a hc, State.helloFromTarget, hstate]
    refine State.closes_of_eq hexec (congrArg State.issuingPass ?_)
    rw [State.movePort_eq, hstate]
    rfl
  · have hignored : s.helloFromTarget p = .next s := by
      unfold State.helloFromTarget
      rcases hstate with h | h <;> rw [h]
    exact ⟨(exec_targetHello s p a (by simp)).trans hignored, (exec_targetHello s p a (by simp)).trans hignored⟩

/-- A port cut and moved, whole. -/
theorem State.cutPort_movePort_eq (s : State) (p : PortNo) (status : Status) (f : Port → Port) :
    (s.cutPort p status).movePort p f = { s with
      up := (((s.tt.entries.rows.filter (fun e => e.state = .opened ∧ e.port = p)).map (fun e => e.pair)
        ++ (s.hold p).map (fun r => r.pair)).map (fun pair => plainRsp pair status)).foldl Up.respond s.up
      tt := { s.tt with
        entries := s.tt.entries.map (fun e => if e.state ≠ .free ∧ e.port = p then Entry.blank else e)
        holds := s.tt.holds.set p [] }
      dp := s.dp.set p (f { s.port p with slot := [] })
      ev := s.ev.hand ⟨.portState, .port p, none, BitVec.ofNat 32 ((f { s.port p with slot := [] }).state.code.toNat
        + 16 * (s.port p).state.code.toNat + 256 * (f { s.port p with slot := [] }).reason.code.toNat), s.tb.timestamp⟩ } := by
  rw [State.movePort_eq, State.cutPort_eq]
  simp [State.port]

/-- Settles O35. -/
theorem downstreamLossAnswersTargetLost : Obligations.DownstreamLossAnswersTargetLost := by
  intro s p a q lost after
  have hexec : (s.port p).state.linkIsUp = true → ∀ c ∈ ([.downstreamLinkLoss p .symbolLock,
      .downstreamLinkLoss p (.down a (symbolCheck .down a)), .downstreamLinkLoss p (.hello a (symbolCheck .hello a)),
      .portHelloReceived p a (symbolCheck .hello a)] : List Instr), exec c s = .next (s.loseLink p).settle := by
    intro hlink c hc
    have hhello : s.helloFromTarget p = .next (s.loseLink p).settle := by
      unfold State.helloFromTarget
      rcases PortState.linkIsUp_iff.1 hlink with h | h | h | h <;> rw [h]
    simp only [List.mem_cons, List.not_mem_nil, or_false] at hc
    rcases hc with rfl | rfl | rfl | rfl
    · exact if_pos hlink
    · exact if_pos ⟨symbolOk_symbolCheck _ _, hlink⟩
    · exact (exec_targetHello s p a (by simp)).trans hhello
    · exact (exec_targetHello s p a (by simp)).trans hhello
  refine ⟨fun c hc => ⟨fun hstate => ?_, fun hstate => ?_⟩, fun hstate => ?_⟩
  · have hlink : (s.port p).state.linkIsUp = true := PortState.linkIsUp_iff.2 (by tauto)
    have hlost : s.loseLink p = ((s.cutPort p .targetLost).movePort p (Port.enterFaulted .linkLost)).issuingPass := by
      unfold State.loseLink
      rcases hstate with h | h | h <;> rw [h]
    refine State.closes_of_eq (hexec hlink c hc) (hlost.trans (congrArg State.issuingPass ?_))
    rw [State.cutPort_movePort_eq]
    rfl
  · have hlink : (s.port p).state.linkIsUp = true := PortState.linkIsUp_iff.2 (.inr (.inr (.inr hstate)))
    have hlost : s.loseLink p = ((s.cutPort p .targetLost).movePort p Port.enterDisabled).issuingPass := by
      unfold State.loseLink
      rw [hstate]
    refine State.closes_of_eq (hexec hlink c hc) (hlost.trans (congrArg State.issuingPass ?_))
    rw [State.cutPort_movePort_eq]
    rfl
  · have hlink : ¬ (s.port p).state.linkIsUp = true := PortState.not_linkIsUp hstate
    exact ⟨if_neg hlink, if_neg fun h => hlink h.2⟩

end Sys2Proof.Machine
end

section
/-! PROOF. The commands of the command word (R57 to R66, R88, R89, R109 to R112, R156 to R160, R172, R178). -/
namespace Sys2Proof.Machine

/-! ### A command taken (R151, R157) -/

/-- The state with the head off MU's queue. -/
def State.popped (s : State) (rest : List Request) : State := { s with mu := { s.mu with queue := rest } }

section
variable {s : State} {r : Request} {rest : List Request}

/-- A command whose head carries it is taken. -/
theorem served_carried {c : Cmd} {action : State → Request → CmdResult} (hidle : s.mu.cmd = .idle)
    (hqueue : s.mu.queue = r :: rest) (hcarries : s.headCarries c r = true) :
    (match s.mu.head with
      | none => .next s
      | some r => if s.headCarries c r then .next (takeCommand c r (action s.popMu r)) else .next s)
      = (.next (takeCommand c r (action (s.popped rest) r)) : Host.Outcome State Fault Refusal) := by
  rw [Mu.head_cons hidle hqueue, State.popMu_cons hqueue]
  exact if_pos hcarries

/-- How a command taken ends, by what its action made. -/
theorem takeCommand_closes {c : Cmd} {body : CmdResult} {x m : State} {st : Status} {detail : Word}
    (hbody : body = ⟨x, st, detail⟩) (hm : (x.record c.code st detail).answer r.pair st = m) :
    State.Closes m (takeCommand c r body) := by
  rw [hbody]
  exact State.closes_settle hm

end

/-! ### COMMIT, STAGING-COPY, LOCK, CLEAR-ALL (R57 to R66, R158) -/

section
variable {s : State} (pair : Pair)

theorem State.commitAction_locked (h : s.da.lock = true) : s.commitAction pair = ⟨s, .locked, 0#32⟩ := if_pos h

theorem State.commitAction_invalid {f : Failure} (hlock : s.da.lock = false) (hf : s.da.staging.failure = some f) :
    s.commitAction pair = ⟨s, .invalidImage, f.detail⟩ := by
  rw [State.commitAction, if_neg (by simp [hlock]), hf]

theorem State.commitAction_valid (hlock : s.da.lock = false) (hf : s.da.staging.failure = none) :
    s.commitAction pair = ⟨(s.modDa Da.swap).commitEvent pair, .ok, (s.da.generation + 1).setWidth 32⟩ := by
  rw [State.commitAction, if_neg (by simp [hlock]), hf]
  exact congrArg (CmdResult.mk _ _) (fieldAt_zero _)

theorem commitDetail_eq (generation label : BitVec 16) :
    fieldAt generation 0 ||| fieldAt label 16 = BitVec.ofNat 32 (generation.toNat + 65536 * label.toNat) := by
  have hlow : (fieldAt generation 0).toNat = generation.toNat := by
    rw [fieldAt_toNat _ _ (by decide), Nat.pow_zero, Nat.mul_one]
  have hg := generation.isLt
  have hl := label.isLt
  refine BitVec.eq_of_toNat_eq ?_
  rw [or_fieldAt_toNat _ _ _ (by decide) (by omega), hlow, BitVec.toNat_ofNat]
  omega

/-- The COMMIT record (R61). -/
theorem State.commitEvent_eq (s : State) (pair : Pair) : s.commitEvent pair = { s with
    ev := s.ev.hand ⟨.commit, .nowhere, some pair,
      BitVec.ofNat 32 (s.da.generation.toNat + 65536 * s.da.active.label.toNat), s.tb.timestamp⟩ } := by
  rw [State.commitEvent, commitDetail_eq]
  rfl

end

/-- The reason of a failure, below its index and item. -/
theorem Reason.field_toNat (why : Reason) : (fieldAt why.code 0).toNat = why.code.toNat ∧ why.code.toNat < 2 ^ 4 := by
  refine ⟨?_, why.code.isLt⟩
  rw [fieldAt_toNat _ _ (by decide), Nat.pow_zero, Nat.mul_one]

/-- Reason, index and item of a failure in their places. -/
theorem failureDetail_toNat (why : Reason) {n : Nat} (hn : n < 64) (item : BitVec 2) :
    (fieldAt why.code 0 ||| countAt 6 n 16 ||| fieldAt item 24).toNat
      = why.code.toNat + 2 ^ 16 * n + item.toNat * 2 ^ 24 := by
  obtain ⟨hwhy, hlt⟩ := why.field_toNat
  have hindex : (fieldAt why.code 0 ||| countAt 6 n 16).toNat = why.code.toNat + 2 ^ 16 * n := by
    rw [countAt, or_fieldAt_toNat _ _ _ (by decide) (by omega), hwhy, BitVec.toNat_ofNat, Nat.mod_eq_of_lt hn, Nat.mul_comm]
  rw [or_fieldAt_toNat _ _ _ (by decide) (by rw [hindex]; omega), hindex]

/-- Settles O45: the three ends of COMMIT, and the fields of a failure's detail. -/
theorem commitSwapsValidBanks : Obligations.CommitSwapsValidBanks := by
  refine ⟨?_, fun why => ?_, fun n why => failureDetail_toNat why n.isLt 2#2,
    fun n why => failureDetail_toNat why (by omega) 3#2, rfl⟩
  · intro s r rest hidle hqueue hcode served
    have hcarries : s.headCarries .commit r = true := State.headCarries_of hcode rfl
    have hexec : exec .commit s = .next (takeCommand .commit r ((s.popped rest).commitAction r.pair)) :=
      served_carried (action := fun s r => s.commitAction r.pair) hidle hqueue hcarries
    refine ⟨_, hexec, fun hlock => ?_, fun f hlock hf => ?_, fun hlock hf => ?_⟩
    · exact takeCommand_closes (State.commitAction_locked (s := s.popped rest) r.pair hlock) rfl
    · exact takeCommand_closes (State.commitAction_invalid (s := s.popped rest) r.pair hlock hf) rfl
    · refine takeCommand_closes (State.commitAction_valid (s := s.popped rest) r.pair hlock hf) ?_
      rw [State.commitEvent_eq]
      rfl
  · obtain ⟨hwhy, hlt⟩ := why.field_toNat
    rw [Failure.detail, or_fieldAt_toNat _ _ _ (by decide) (by omega), hwhy]
    rfl

/-- Settles O47. -/
theorem bankCommandsActWhole : Obligations.BankCommandsActWhole := by
  intro s r rest hidle hqueue served
  refine ⟨fun hcode => ?_, fun hcode => ?_, fun hcode => ?_⟩
  · have hexec : exec .stagingCopy s = .next (takeCommand .stagingCopy r (s.popped rest).stagingCopyAction) :=
      served_carried (action := fun s _ => s.stagingCopyAction) hidle hqueue (State.headCarries_of hcode rfl)
    exact ⟨_, hexec, fun hlock => takeCommand_closes (if_pos hlock) rfl,
      fun hlock => takeCommand_closes (if_neg (c := (s.popped rest).da.lock = true) (by simp [State.popped, hlock])) rfl⟩
  · have hexec : exec .lock s = .next (takeCommand .lock r (s.popped rest).lockAction) :=
      served_carried (action := fun s _ => s.lockAction) hidle hqueue (State.headCarries_of hcode rfl)
    exact ⟨_, hexec, takeCommand_closes rfl rfl⟩
  · have hexec : exec .clearAll s = .next (takeCommand .clearAll r ((s.popped rest).clearAllAction r.pair)) :=
      served_carried (action := fun s r => s.clearAllAction r.pair) hidle hqueue (State.headCarries_of hcode rfl)
    refine ⟨_, hexec, takeCommand_closes rfl ?_⟩
    rw [State.commitEvent_eq]
    rfl

/-! ### CAPTURE-CLEAR and COUNTER-CLEAR (R50, R115, R160, R172) -/

theorem extractLow_getLsbD (w : Word) (c : CellNo) : (w.extractLsb' 0 8).getLsbD c.val = w.getLsbD c.val := by
  simp

theorem fieldAt_extractLow (w : Word) : fieldAt (w.extractLsb' 0 8) 0 = w &&& 0xFF#32 := by
  have hmask : ∀ i : Fin 32, (0xFF#32).getLsbD i.val = decide (i.val < 8) := by decide
  rw [fieldAt_zero]
  refine BitVec.eq_of_getLsbD_eq fun i hi => ?_
  rw [BitVec.getLsbD_and, hmask ⟨i, hi⟩, BitVec.getLsbD_setWidth, BitVec.getLsbD_extractLsb', Nat.zero_add]
  simp [hi, Bool.and_comm]

/-- The cells a CAPTURE-CLEAR empties are those the argument names. -/
theorem Da.clearCells_extractLow (d : Da) (w : Word) : d.clearCells (w.extractLsb' 0 8) = { d with
    cells := d.cells.imap fun c x => if w.getLsbD c.val then { x with full := false, record := .zero, loads := 0#16 } else x } := by
  simp only [Da.clearCells, extractLow_getLsbD]
  rfl

/-- Settles O48. -/
theorem clearCommandsClear : Obligations.ClearCommandsClear := by
  intro s r rest hidle hqueue served
  refine ⟨fun hcode => ?_, fun hcode => ?_⟩
  · have hexec : exec .captureClear s = .next (takeCommand .captureClear r (s.popped rest).captureClearAction) :=
      served_carried (action := fun s _ => s.captureClearAction) hidle hqueue (State.headCarries_of hcode rfl)
    have hbody : (s.popped rest).captureClearAction
        = ⟨(s.popped rest).modDa (fun d => d.clearCells (s.mu.arg.extractLsb' 0 8)), .ok, s.mu.arg &&& 0xFF#32⟩ :=
      congrArg (CmdResult.mk _ _) (fieldAt_extractLow s.mu.arg)
    refine ⟨_, hexec, takeCommand_closes hbody ?_⟩
    rw [State.modDa, Da.clearCells_extractLow]
    rfl
  · have hexec : exec .counterClear s = .next (takeCommand .counterClear r (s.popped rest).counterClearAction) :=
      served_carried (action := fun s _ => s.counterClearAction) hidle hqueue (State.headCarries_of hcode rfl)
    exact ⟨_, hexec, takeCommand_closes rfl rfl⟩

end Sys2Proof.Machine
end

section
/-! PROOF. The port commands, the commands refused and SEGMENT-RESET (R53, R88, R89, R91, R109 to R112, R146, R153, R156,
R157, R159, R161 to R163, R178). -/
namespace Sys2Proof.Machine

/-! ### PORT-ENABLE, PORT-DISABLE, PORT-RESTART (R88, R89, R109 to R111, R159) -/

theorem argPort_of {arg : Word} {p : PortNo} (h : arg.toNat = p.val) : argPort arg = p := by
  refine Fin.ext ?_
  rw [argPort, Fin.val_ofNat, h, Nat.mod_eq_of_lt p.isLt]

theorem Cmd.argumentOk_of {c : Cmd} {arg : Word} {p : PortNo} (h : arg.toNat = p.val) : c.argumentOk arg = true := by
  have hlt : arg.toNat < 4 := h ▸ p.isLt
  cases c <;> simp [Cmd.argumentOk, hlt]

theorem portDetail_eq (p : PortNo) (st : PortState) :
    portDetail p st = BitVec.ofNat 32 (p.val + 256 * st.code.toNat) := by
  have hp : (countAt 2 p.val 0).toNat = p.val := countAt_zero_toNat (by decide) p.isLt
  have hbyte : (countAt 2 p.val 0).toNat < 256 := by omega
  rw [portDetail, or_fieldAt_eight_eq _ (by decide) hbyte, hp]

/-- The result of a port command that left the port in `after`. -/
theorem portResult_eq {p : PortNo} {res : State × Status} {x : State} {st : Status} (after : PortState) (hres : res = (x, st))
    (hafter : (x.port p).state = after) :
    portResult p res = ⟨x, st, BitVec.ofNat 32 (p.val + 256 * after.code.toNat)⟩ := by
  rw [hres, portResult, hafter, portDetail_eq]

section
variable {s : State} {p : PortNo}

theorem State.portEnable_starts (h : (s.port p).state = .disabled ∨ (s.port p).state = .faulted) :
    s.portEnable p = (s.modPort p (Port.enterLinking s.up.segId), .ok) := by
  unfold State.portEnable
  rcases h with h | h <;> rw [h]

theorem State.portEnable_draining (h : (s.port p).state = .draining) : s.portEnable p = (s, .busy) := by
  rw [State.portEnable, h]

theorem State.portEnable_on (h : (s.port p).state = .linking ∨ (s.port p).state = .active ∨ (s.port p).state = .parked
      ∨ (s.port p).state = .waking) : s.portEnable p = (s, .ok) := by
  unfold State.portEnable
  rcases h with h | h | h | h <;> rw [h]

theorem State.portDisable_off (h : (s.port p).state = .disabled ∨ (s.port p).state = .draining) :
    s.portDisable p = (s, .ok) := by
  unfold State.portDisable
  rcases h with h | h <;> rw [h]

theorem State.portDisable_unheld (h : (s.port p).state = .linking ∨ (s.port p).state = .parked) :
    s.portDisable p = (s.movePort p Port.shutDown, .ok) := by
  unfold State.portDisable
  rcases h with h | h <;> rw [h]

theorem State.portDisable_faulted (h : (s.port p).state = .faulted) :
    s.portDisable p = (s.movePort p Port.enterDisabled, .ok) := by
  rw [State.portDisable, h]

theorem State.portDisable_shuts (h : (s.port p).state = .waking ∨ ((s.port p).state = .active ∧ s.tt.count p = 0)) :
    s.portDisable p = ((s.answerHold p .aborted).movePort p Port.shutDown, .ok) := by
  unfold State.portDisable
  rcases h with h | ⟨h, hcount⟩ <;> simp only [h]
  exact if_pos hcount

theorem State.portDisable_drains (h : (s.port p).state = .active) (hcount : s.tt.count p ≠ 0) :
    s.portDisable p = ((s.answerHold p .aborted).modPort p Port.enterDraining, .ok) := by
  unfold State.portDisable
  simp only [h]
  exact if_neg hcount

theorem State.portRestart_disabled (h : (s.port p).state = .disabled) : s.portRestart p = (s, .refused) := by
  rw [State.portRestart, h]

theorem State.portRestart_relinks (h : (s.port p).state ≠ .disabled) : s.portRestart p =
    (((s.cutPort p .aborted).modPort p fun q => (q.put (plainSymbol .down)).enterLinking s.up.segId).issuingPass, .ok) := by
  unfold State.portRestart
  split
  · next hd => exact absurd hd h
  all_goals rfl

/-- A port turned off, with its record. -/
theorem State.movePort_off {f : Port → Port} (hstate : (f (s.port p)).state = .disabled)
    (hreason : (f (s.port p)).reason = .noFault) : s.movePort p f = { s with
      dp := s.dp.set p (f (s.port p))
      ev := s.ev.hand ⟨.portState, .port p, none, BitVec.ofNat 32 (16 * (s.port p).state.code.toNat), s.tb.timestamp⟩ } := by
  have hdetail : ∀ n, PortState.disabled.code.toNat + 16 * n + 256 * FaultReason.noFault.code.toNat = 16 * n := fun n => by
    simp [PortState.code, FaultReason.code]
  rw [State.movePort_eq, hstate, hreason, hdetail]

end

section
variable {s : State} {r : Request} {rest : List Request} {p : PortNo} (hidle : s.mu.cmd = .idle)
  (hqueue : s.mu.queue = r :: rest) (harg : s.mu.arg.toNat = p.val)
include hidle hqueue harg

theorem execPortEnable_carried (hcode : r.commandCode = some 0x10#32) : execPortEnable s
    = .next (takeCommand .portEnable r (portResult p ((s.popped rest).portEnable p))) := by
  have hcarries : s.headCarries .portEnable r = true := State.headCarries_of hcode (Cmd.argumentOk_of harg)
  rw [execPortEnable, Mu.head_cons hidle hqueue, State.popMu_cons hqueue, argPort_of harg]
  exact if_pos hcarries

theorem execPortDisable_carried (hcode : r.commandCode = some 0x11#32) : execPortDisable s
    = .next (takeCommand .portDisable r (portResult p ((s.popped rest).portDisable p))) := by
  have hcarries : s.headCarries .portDisable r = true := State.headCarries_of hcode (Cmd.argumentOk_of harg)
  rw [execPortDisable, Mu.head_cons hidle hqueue, State.popMu_cons hqueue, argPort_of harg]
  exact if_pos hcarries

theorem execPortRestart_carried (hcode : r.commandCode = some 0x12#32) : execPortRestart s
    = .next (takeCommand .portRestart r (portResult p ((s.popped rest).portRestart p))) := by
  have hcarries : s.headCarries .portRestart r = true := State.headCarries_of hcode (Cmd.argumentOk_of harg)
  rw [execPortRestart, Mu.head_cons hidle hqueue, State.popMu_cons hqueue, argPort_of harg]
  exact if_pos hcarries

end

/-- Settles O37. -/
theorem portEnableByState : Obligations.PortEnableByState := by
  intro s r rest p hidle hqueue hcode harg q served
  refine ⟨_, execPortEnable_carried hidle hqueue harg hcode, fun hst => ?_, fun hst => ?_, fun hst => ?_⟩
  · exact takeCommand_closes (portResult_eq .linking (State.portEnable_starts (s := s.popped rest) hst)
      (by rw [State.modPort_port_self]; rfl)) rfl
  · exact takeCommand_closes (portResult_eq .draining (State.portEnable_draining (s := s.popped rest) hst) hst) rfl
  · exact takeCommand_closes (portResult_eq _ (State.portEnable_on (s := s.popped rest) hst) rfl) rfl

/-- Settles O38. -/
theorem portDisableByState : Obligations.PortDisableByState := by
  intro s r rest p hidle hqueue hcode harg q served off event aborted emptied free
  have hfree : s.tt.count p = 0 ↔ free := Tt.count_eq_zero
  refine ⟨_, execPortDisable_carried hidle hqueue harg hcode, fun hst => ?_, fun hst => ?_, fun hst => ?_, fun hst => ?_,
    fun hst hbusy => ?_⟩
  · exact takeCommand_closes (portResult_eq _ (State.portDisable_off (s := s.popped rest) hst) rfl) rfl
  · have hres := State.portDisable_unheld (s := s.popped rest) hst
    rw [State.movePort_off rfl rfl] at hres
    exact takeCommand_closes (portResult_eq .disabled hres (by rw [State.port, Table.get_set_self]; rfl)) rfl
  · have hres := State.portDisable_faulted (s := s.popped rest) hst
    rw [State.movePort_off rfl rfl] at hres
    exact takeCommand_closes (portResult_eq .disabled hres (by rw [State.port, Table.get_set_self]; rfl)) rfl
  · have hres := State.portDisable_shuts (s := s.popped rest) (hst.imp_right fun h => ⟨h.1, hfree.2 h.2⟩)
    rw [State.movePort_off rfl rfl, State.answerHold_eq] at hres
    exact takeCommand_closes (portResult_eq .disabled hres (by rw [State.port, Table.get_set_self]; rfl)) rfl
  · have hres := State.portDisable_drains (s := s.popped rest) hst (mt hfree.1 hbusy)
    rw [State.answerHold_eq] at hres
    exact takeCommand_closes (portResult_eq .draining hres (by rw [State.modPort_port_self]; rfl)) rfl

/-- The issuing pass reads of UP the segment identity alone, and nothing of MU. -/
theorem State.passRounds_withUpMu (k : Nat) (s : State) (u : Up) (m : Mu) (hseg : u.segId = s.up.segId) :
    State.passRounds k { s with up := u, mu := m } = { State.passRounds k s with up := u, mu := m } := by
  induction k generalizing s with
  | zero => rfl
  | succ k ih =>
    rcases s.round_or_stop with hstop | ⟨p, n, r, rest, hp, hn, hr⟩
    · rw [State.passRounds_stop _ hstop, State.passRounds_stop (s := { s with up := u, mu := m }) _ hstop]
    · have hissued : ({ s with up := u, mu := m } : State).issued n p r rest
          = { s.issued n p r rest with up := u, mu := m } := by
        simp only [State.issued, State.issuedItem, hseg]
        rfl
      rw [State.passRounds_succ _ hp hn hr, State.passRounds_succ (s := { s with up := u, mu := m }) _ hp hn hr, hissued]
      exact ih (s.issued n p r rest) hseg

/-- A pass followed by the record and the answer of a command, over the pass of a state that differs in UP and MU. -/
theorem State.issuingPass_answer {x y : State} {u : Up} {m : Mu} (hy : y = { x with up := u, mu := m })
    (hseg : u.segId = x.up.segId) (pair : Pair) (command : BitVec 8) (st : Status) (detail : Word) :
    (y.issuingPass.record command st detail).answer pair st = { x.issuingPass with
      up := u.respond (plainRsp pair st), mu := { m with last := ⟨command, st, detail⟩ } } := by
  have hpass : y.issuingPass = { x.issuingPass with up := u, mu := m } :=
    hy ▸ State.passRounds_withUpMu 32 x u m hseg
  rw [hpass]
  rfl

theorem Up.foldl_respond_segId (rs : List Rsp) (u : Up) : (rs.foldl Up.respond u).segId = u.segId := by
  rw [Up.foldl_respond_frame]

/-- A port cut and changed, whole. -/
theorem State.cutPort_modPort_eq (s : State) (p : PortNo) (status : Status) (f : Port → Port) :
    (s.cutPort p status).modPort p f = { s with
      up := (((s.tt.entries.rows.filter (fun e => e.state = .opened ∧ e.port = p)).map (fun e => e.pair)
        ++ (s.hold p).map (fun r => r.pair)).map (fun pair => plainRsp pair status)).foldl Up.respond s.up
      tt := { s.tt with
        entries := s.tt.entries.map (fun e => if e.state ≠ .free ∧ e.port = p then Entry.blank else e)
        holds := s.tt.holds.set p [] }
      dp := s.dp.set p (f { s.port p with slot := [] }) } := by
  rw [State.cutPort_eq]
  simp [State.modPort, Table.modify]

/-- What a restart of port `p` makes of TT and the ports, before its issuing pass (R89, R111). -/
def State.relinking (s : State) (p : PortNo) : State := { s with
  tt := { s.tt with
    entries := s.tt.entries.map (fun e => if e.state ≠ .free ∧ e.port = p then Entry.blank else e)
    holds := s.tt.holds.set p [] }
  dp := s.dp.set p { s.port p with
    state := .linking, reason := .noFault, helloTimer := some 1000
    linkTimer := some (1000 * (s.port p).linkTimeout.toNat), idleTimer := none, wakeTimer := none, slot := []
    credit := .zero, ntfGranted := false
    sent := (s.port p).sent ++ [plainSymbol .down, helloSymbol s.up.segId] } }

/-- The restart of a port by MU, before its issuing pass. -/
theorem State.popped_relinking (s : State) (rest : List Request) (p : PortNo) :
    ((s.popped rest).cutPort p .aborted).modPort p
        (fun q => (q.put (plainSymbol .down)).enterLinking (s.popped rest).up.segId) = { s.relinking p with
      up := (((s.tt.entries.rows.filter (fun e => e.state = .opened ∧ e.port = p)).map (fun e => e.pair)
        ++ (s.hold p).map (fun r => r.pair)).map (fun pair => plainRsp pair .aborted)).foldl Up.respond s.up
      mu := { s.mu with queue := rest } } := by
  rw [State.cutPort_modPort_eq]
  simp only [Port.put, Port.enterLinking, List.append_assoc]
  rfl

/-- The issuing pass leaves every port in its state. -/
theorem State.issuingPass_port_state (s : State) (p : PortNo) : (s.issuingPass.port p).state = (s.port p).state := by
  obtain ⟨-, -, -, -, -, -, hports⟩ := s.issuingPass_frame
  rw [hports]

/-- Settles O39: the pass of the restart runs before the record and the answer, which it does not read. -/
theorem portRestartAbortsAndRelinks : Obligations.PortRestartAbortsAndRelinks := by
  intro s r rest p hidle hqueue hcode harg q served cut restarted
  refine ⟨_, execPortRestart_carried hidle hqueue harg hcode, fun hst => ?_, fun hst => ?_⟩
  · exact takeCommand_closes (portResult_eq .disabled (State.portRestart_disabled (s := s.popped rest) hst) hst) rfl
  · have hres := State.portRestart_relinks (s := s.popped rest) hst
    rw [State.popped_relinking] at hres
    have hafter : ∀ x : State, (x.port p).state = .linking → (x.issuingPass.port p).state = .linking := fun x hx =>
      (x.issuingPass_port_state p).trans hx
    refine takeCommand_closes (portResult_eq .linking hres (hafter _ (by rw [State.port, State.relinking, Table.get_set_self]))) ?_
    exact State.issuingPass_answer (x := s.relinking p) rfl (Up.foldl_respond_segId _ _) r.pair _ _ _

end Sys2Proof.Machine
end

section
/-! PROOF. The commands that are refused (R153, R156, R157, R178) and SEGMENT-RESET (R53, R91, R112, R146, R161 to R163). -/
namespace Sys2Proof.Machine

/-! ### When a request carries a command, and which are refused -/

theorem Request.commandCode_eq_some_iff {r : Request} {v : Word} : r.commandCode = some v ↔
    r.addr = 0xFFFF0041#32 ∧ r.opcode ≠ .read ∧ r.length = 1#7
      ∧ v = if r.opcode = .write then r.payload.getD 0 0#32 else r.payload.getD 1 0#32 &&& r.payload.getD 0 0#32 := by
  have haddr : r.length = 1#7 → ((r.inWindow = true ∧ r.offset = commandOffset) ↔ r.addr = 0xFFFF0041#32) := by
    intro hlen
    have hlt := r.addr.isLt
    have hone : r.length.toNat = 1 := by rw [hlen]; rfl
    have hbase : (0xFFFF0041#32).toNat = 0xFFFF0041 := rfl
    rw [Request.inWindow_iff, hone, Request.offset, commandOffset, ← BitVec.toNat_inj, hbase]
    omega
  have hvalue : r.opcode ≠ .read → r.length = 1#7 → r.writtenMasked 0
      = if r.opcode = .write then r.payload.getD 0 0#32 else r.payload.getD 1 0#32 &&& r.payload.getD 0 0#32 := by
    intro hop hlen
    have hone : r.length.toNat = 1 := by rw [hlen]; rfl
    cases hop' : r.opcode with
    | read => exact absurd hop' hop
    | write => simp [Request.writtenMasked, Request.valueWord, hop']
    | modify => simp [Request.writtenMasked, Request.valueWord, Request.maskWord, hop', hone]
  rw [Request.commandCode]
  constructor
  · intro h
    split at h
    · next hcond =>
      simp only [Bool.and_eq_true, decide_eq_true_eq] at hcond
      obtain ⟨⟨⟨hin, hop⟩, hlen⟩, hoff⟩ := hcond
      cases h
      exact ⟨(haddr hlen).1 ⟨hin, hoff⟩, hop, hlen, hvalue hop hlen⟩
    · cases h
  · rintro ⟨ha, hop, hlen, rfl⟩
    obtain ⟨hin, hoff⟩ := (haddr hlen).2 ha
    rw [if_pos (by simp [hin, hop, hlen, hoff]), hvalue hop hlen]

section
variable {s : State} {r : Request} {rest : List Request} {code : Word} (hidle : s.mu.cmd = .idle)
  (hqueue : s.mu.queue = r :: rest) (hcode : r.commandCode = some code)
include hidle hqueue hcode

theorem execUnknownCommand_refuses {command : BitVec 8} {detail : Word}
    (h : refusedCommand code s.mu.arg = some (command, detail)) : ∃ t, execUnknownCommand s = .next t ∧ State.Closes { s with
      up := s.up.respond (plainRsp r.pair .refused)
      mu := { s.mu with queue := rest, last := { command := command, status := .refused, detail := detail } } } t := by
  have hexec : execUnknownCommand s
      = .next (((s.popMu.record command .refused detail).answer r.pair .refused).settle) := by
    unfold execUnknownCommand
    simp only [Mu.head_cons hidle hqueue, hcode, h]
  refine State.closes_of_eq hexec ?_
  rw [State.popMu_cons hqueue]
  rfl

theorem execUnknownCommand_leaves (h : refusedCommand code s.mu.arg = none) : execUnknownCommand s = .next s := by
  unfold execUnknownCommand
  simp only [Mu.head_cons hidle hqueue, hcode, h]

/-- A head that carries a code is no access, so no row of the writes serves it. -/
theorem State.serveWriteIf_leaves {v : Bool} : s.serveWriteIf (fun r => s.writesEnable r v) = s := by
  unfold State.serveWriteIf
  rw [Mu.head_cons hidle hqueue]
  refine if_neg ?_
  simp [State.writesEnable, Request.writesWord, Request.isAccess, hcode]

/-- A port command whose argument names no port leaves the state in its own row. -/
theorem exec_portCommand_leaves (harg : 4 ≤ s.mu.arg.toNat) {c : Instr}
    (hc : c ∈ ([.portEnable, .portDisable, .portRestart] : List Instr)) : exec c s = .next s := by
  have hnot : ∀ c : Cmd, c ∈ [Cmd.portEnable, .portDisable, .portRestart] → ¬ s.headCarries c r = true := by
    intro c hc
    simp only [List.mem_cons, List.not_mem_nil, or_false] at hc
    rcases hc with rfl | rfl | rfl <;> simp [State.headCarries, Cmd.argumentOk, harg]
  have hwrite : ∀ v, s.serveWriteIf (fun r => s.writesEnable r v) = s := fun v => State.serveWriteIf_leaves hidle hqueue hcode
  simp only [List.mem_cons, List.not_mem_nil, or_false] at hc
  rcases hc with rfl | rfl | rfl
  · show execPortEnable s = _
    rw [execPortEnable, Mu.head_cons hidle hqueue, hwrite]
    exact if_neg (hnot _ (by simp))
  · show execPortDisable s = _
    rw [execPortDisable, Mu.head_cons hidle hqueue, hwrite]
    exact if_neg (hnot _ (by simp))
  · show execPortRestart s = _
    rw [execPortRestart, Mu.head_cons hidle hqueue]
    exact if_neg (hnot _ (by simp))

end

/-- The words of the ten commands, in code order. -/
theorem Cmd.words : Cmd.all.map (fun c => c.code.setWidth 32)
    = [0x01#32, 0x02#32, 0x03#32, 0x04#32, 0x10#32, 0x11#32, 0x12#32, 0x20#32, 0x21#32, 0x30#32] := rfl

theorem refusedCommand_unknown {code arg : Word} (h : code ∉ Cmd.all.map fun c => (c.code.setWidth 32 : Word)) :
    refusedCommand code arg = some (0#8, code) := by
  have hnone : Cmd.ofWord code = none := by
    rw [Cmd.ofWord, List.find?_eq_none]
    exact fun c hc heq => h (List.mem_map.2 ⟨c, hc, of_decide_eq_true heq⟩)
  rw [refusedCommand, hnone]

theorem refusedCommand_port {code arg : Word} (h : code ∈ [0x10#32, 0x11#32, 0x12#32]) :
    refusedCommand code arg = if arg.toNat < 4 then none else some (code.setWidth 8, arg) := by
  have hof : ∀ {c : Cmd}, c.argumentOk arg = decide (arg.toNat < 4) → Cmd.ofWord (c.code.setWidth 32) = some c →
      refusedCommand (c.code.setWidth 32) arg
        = if arg.toNat < 4 then none else some ((c.code.setWidth 32).setWidth 8, arg) := by
    intro c harg hof
    rw [refusedCommand, hof]
    simp [harg]
  simp only [List.mem_cons, List.not_mem_nil, or_false] at h
  rcases h with rfl | rfl | rfl
  · exact hof (c := .portEnable) rfl rfl
  · exact hof (c := .portDisable) rfl rfl
  · exact hof (c := .portRestart) rfl rfl

theorem refusedCommand_taken {code arg : Word} (h : code ∈ Cmd.all.map fun c => (c.code.setWidth 32 : Word))
    (hport : code ∉ [0x10#32, 0x11#32, 0x12#32]) : refusedCommand code arg = none := by
  have hof : ∀ c : Cmd, Cmd.ofWord (c.code.setWidth 32) = some c := fun c => by cases c <;> rfl
  obtain ⟨c, -, rfl⟩ := List.mem_map.1 h
  have harg : c.argumentOk arg = true := by
    cases c with
    | portEnable => exact absurd (by decide) hport
    | portDisable => exact absurd (by decide) hport
    | portRestart => exact absurd (by decide) hport
    | _ => rfl
  rw [refusedCommand, hof]
  exact if_pos harg

/-- Settles O49, by what is refused and recorded for a code. -/
theorem unknownCommandRefused : Obligations.UnknownCommandRefused := by
  refine ⟨fun r v => Request.commandCode_eq_some_iff, ?_⟩
  intro s r rest code hidle hqueue hcode known refused
  refine ⟨fun hunknown => execUnknownCommand_refuses hidle hqueue hcode (refusedCommand_unknown hunknown),
    fun hport harg => ?_, fun hknown htaken => execUnknownCommand_leaves hidle hqueue hcode ?_⟩
  · have hrefused : refusedCommand code s.mu.arg = some (code.setWidth 8, s.mu.arg) := by
      rw [refusedCommand_port hport, if_neg (Nat.not_lt.2 harg)]
    obtain ⟨t, hexec, hcloses⟩ := execUnknownCommand_refuses hidle hqueue hcode hrefused
    exact ⟨t, hexec, hcloses, fun c => exec_portCommand_leaves hidle hqueue hcode harg⟩
  · by_cases hport : code ∈ [0x10#32, 0x11#32, 0x12#32]
    · rw [refusedCommand_port hport, if_pos (htaken.resolve_left (not_not.2 hport))]
    · exact refusedCommand_taken hknown hport

/-! ### SEGMENT-RESET -/

/-- The requests the traffic phase answers, the hold queues one by one (R91). -/
theorem State.trafficPairs_eq (s : State) : s.trafficPairs
    = (s.tt.entries.rows.filter (fun e => e.state = .opened)).map (fun e => e.pair)
      ++ (s.hold 0 ++ s.hold 1 ++ s.hold 2 ++ s.hold 3).map (fun h => h.pair) := by
  simp [State.trafficPairs, Tt.openPairs, List.finRange_succ]

/-- A port in the traffic phase (R112). -/
theorem Port.trafficReset_eq (segId : BitVec 4) (q : Port) : q.trafficReset segId
    = if q.state = .disabled then q else { q with
        state := .linking, reason := .noFault, helloTimer := some 1000
        linkTimer := some (1000 * q.linkTimeout.toNat), idleTimer := none, wakeTimer := none, slot := []
        credit := .zero, ntfGranted := false
        sent := q.sent ++ [plainSymbol .down, helloSymbol segId] } := by
  unfold Port.trafficReset
  split
  · next h => rw [if_pos h]
  all_goals
    next h =>
      rw [if_neg (by rw [h]; nofun)]
      simp [Port.put, Port.enterLinking, Config.helloInterval, Credit.zero]

theorem completionDetail_eq (n : Nat) : countAt 6 n 0 = BitVec.ofNat 32 (n % 64) := by
  refine BitVec.eq_of_toNat_eq ?_
  rw [countAt_toNat _ _ _ (by decide), BitVec.toNat_ofNat]
  omega

section
variable {s : State} {w : Pair}

theorem execTrafficPhase_leaves (h : ∀ x, s.mu.cmd ≠ .executing .traffic x) : execTrafficPhase s = .next s := by
  unfold execTrafficPhase
  split
  · next hcmd => exact absurd hcmd (h _)
  all_goals rfl

theorem execCapturePhase_leaves (h : ∀ x, s.mu.cmd ≠ .executing .capture x) : execCapturePhase s = .next s := by
  unfold execCapturePhase
  split
  · next hcmd => exact absurd hcmd (h _)
  all_goals rfl

theorem execSegmentResetCompletion_leaves (h : ∀ x, s.mu.cmd ≠ .executing .completion x) :
    execSegmentResetCompletion s = .next s := by
  unfold execSegmentResetCompletion
  split
  · next hcmd => exact absurd hcmd (h _)
  all_goals rfl

end

/-- Settles O50, phase by phase. -/
theorem segmentResetRunsItsPhases : Obligations.SegmentResetRunsItsPhases := by
  refine ⟨?_, ?_⟩
  · intro s r rest hidle hqueue hcode paused withdrawn
    have hexec : execSegmentReset s = .next ((s.popped rest).startReset r.pair).settle := by
      rw [execSegmentReset, Mu.head_cons hidle hqueue, State.popMu_cons hqueue]
      exact if_pos (State.headCarries_of hcode rfl)
    refine State.closes_of_eq hexec ?_
    rw [State.startReset, State.answerAll_eq, List.map_map]
    rfl
  · intro s w aborted
    refine ⟨fun hcmd => ?_, fun hcmd => ?_, fun hcmd => ?_, execTrafficPhase_leaves, execCapturePhase_leaves,
      execSegmentResetCompletion_leaves⟩
    · have hexec : execTrafficPhase s
          = .next (s.trafficReset.modMu (fun m => { m with cmd := .executing .capture w })).settle := by
        rw [execTrafficPhase, hcmd]
      refine State.closes_of_eq hexec ?_
      rw [State.trafficReset, State.trafficPairs_eq, State.answerAll_eq]
      simp only [funext (Port.trafficReset_eq s.up.segId)]
      rfl
    · show execCapturePhase s = _
      rw [execCapturePhase, hcmd]
      rfl
    · have hexec : execSegmentResetCompletion s = .next (s.completeReset w).settle := by
        rw [execSegmentResetCompletion, hcmd]
      refine State.closes_of_eq hexec ?_
      rw [State.completeReset, completionDetail_eq]
      rfl

end Sys2Proof.Machine
end

section
/-! PROOF. The accesses of the management window: the checks of a READ and of a write, and the words of a span one after
another (R77, R86, R97, R121, R151, R153 to R155). -/
namespace Sys2Proof.Machine

/-! ### The checks of a span (R151) -/

section
variable {r : Request}

/-- A span covers a table word, as the ranges of the map say it. -/
theorem Request.spansTable_iff_range : r.spansTable = true ↔ ∃ i, i < r.length.toNat
    ∧ ((0x1000 ≤ r.offset + i ∧ r.offset + i ≤ 0x1241) ∨ (0x2000 ≤ r.offset + i ∧ r.offset + i ≤ 0x2241)) := by
  rw [Request.spansTable_iff]
  simp only [isTableWord_iff]

theorem Request.length_ne_one_iff : r.length ≠ 1#7 ↔ r.length.toNat ≠ 1 := by
  rw [ne_eq, ← BitVec.toNat_inj]
  rfl

end

/-! ### READ (R151, R153, R155) -/

section
variable {s : State} {r : Request}

theorem State.serveRead_refused (h : ¬ r.inWindow = true) : s.serveRead r = s.answer r.pair .refused :=
  if_pos (by simpa using h)

section
variable (hin : r.inWindow = true)
include hin

theorem State.serveRead_badRequest (hcommand : r.spansCommand = true) (hlen : r.length ≠ 1#7) :
    s.serveRead r = s.answer r.pair .badRequest := by
  rw [State.serveRead, if_neg (by simp [hin]), if_pos (by simp [hcommand, hlen])]

theorem State.serveRead_locked (hpass : ¬ (r.spansCommand = true ∧ r.length ≠ 1#7)) (hlock : s.da.lock = true)
    (htable : r.spansTable = true) : s.serveRead r
      = s.respond { pair := r.pair, status := .locked, length := r.length, payload := s.lockedWords r } := by
  rw [State.serveRead, if_neg (by simp [hin]), if_neg (by simpa using hpass), if_pos (by simp [hlock, htable])]

theorem State.serveRead_ok (hpass : ¬ (r.spansCommand = true ∧ r.length ≠ 1#7))
    (hopen : ¬ (s.da.lock = true ∧ r.spansTable = true)) : s.serveRead r
      = s.respond { pair := r.pair, status := .ok, length := r.length, payload := s.readWords r } := by
  rw [State.serveRead, if_neg (by simp [hin]), if_neg (by simpa using hpass), if_neg (by simpa using hopen)]

end

theorem State.lockedWords_length : (s.lockedWords r).length = r.length.toNat := by
  simp [State.lockedWords, Request.offsets]

/-- Word `i` of a READ answered LOCKED: zero for a table word (R155). -/
theorem State.lockedWords_getElem? {i : Nat} (hi : i < r.length.toNat) : (s.lockedWords r)[i]?
    = some (if isTableWord (r.offset + i) then 0#32 else s.readWord (r.offset + i)) := by
  simp [State.lockedWords, Request.offsets, hi]

theorem execManagementRead_head {rest : List Request} (hidle : s.mu.cmd = .idle) (hqueue : s.mu.queue = r :: rest)
    (hop : r.opcode = .read) : execManagementRead s = .next ((s.popped rest).serveRead r).settle := by
  rw [execManagementRead, Mu.head_cons hidle hqueue, State.popMu_cons hqueue]
  exact if_pos hop

theorem execManagementRead_leaves
    (h : s.mu.cmd ≠ .idle ∨ s.mu.queue = [] ∨ ∃ h, s.mu.queue.head? = some h ∧ h.opcode ≠ .read) :
    execManagementRead s = .next s := by
  unfold execManagementRead
  split
  · rfl
  · next r hhead =>
    have hidle := Mu.idle_of_head hhead
    rw [Mu.head, hidle] at hhead
    refine if_neg fun hop => ?_
    rcases h with hcmd | hnil | ⟨h, hh, hne⟩
    · exact hcmd hidle
    · rw [hnil] at hhead
      cases hhead
    · rw [hh] at hhead
      cases hhead
      exact hne hop

end

/-- Settles O40: the checks of R151 in order, then the words of the span. -/
theorem managementReadAnswersWords : Obligations.ManagementReadAnswersWords := by
  intro s r rest
  refine ⟨?_, execManagementRead_leaves⟩
  intro hidle hqueue hop off inside covers table answered hlen
  have hin : r.inWindow = true ↔ inside := Request.inWindow_iff
  have hcommand : r.spansCommand = true ↔ covers (fun o => o = 0x41) := Request.spansCommand_iff
  have htable : r.spansTable = true ↔ covers table := Request.spansTable_iff_range
  have hpass : ¬ (r.spansCommand = true ∧ r.length ≠ 1#7) ↔ ¬ (covers (fun o => o = 0x41) ∧ r.length.toNat ≠ 1) := by
    rw [hcommand, Request.length_ne_one_iff]
  refine ⟨_, execManagementRead_head hidle hqueue hop, fun hout => ?_, fun hinside hcovers hmore => ?_,
    fun hinside hgood hlock hcovers => ?_, fun hinside hgood hopen => ?_⟩
  · exact State.closes_settle (State.serveRead_refused (mt hin.1 hout))
  · exact State.closes_settle (State.serveRead_badRequest (hin.2 hinside) (hcommand.2 hcovers) (Request.length_ne_one_iff.2 hmore))
  · refine ⟨(s.popped rest).lockedWords r, State.closes_settle (State.serveRead_locked (s := s.popped rest) (hin.2 hinside)
      (hpass.2 hgood) hlock (htable.2 hcovers)), State.lockedWords_length, fun i hi => ⟨fun ht => ?_, fun ht => ?_⟩⟩
    · rw [State.lockedWords_getElem? hi]
      exact congrArg some (if_pos (isTableWord_iff.2 ht))
    · rw [State.lockedWords_getElem? hi]
      exact congrArg some (if_neg (mt isTableWord_iff.1 ht))
  · refine State.closes_settle ((State.serveRead_ok (s := s.popped rest) (hin.2 hinside) (hpass.2 hgood)
      fun ⟨hlock, hcovers⟩ => ?_).trans ?_)
    · rcases hopen with hunlocked | hnone
      · have hlock' : s.da.lock = true := hlock
        rw [hunlocked] at hlock'
        cases hlock'
      · exact hnone (htable.1 hcovers)
    · rw [State.readWords, Request.offsets, List.map_map]
      rfl

/-! ### WRITE and MODIFY (R151, R153 to R155) -/

section
variable {s : State} {r : Request}

theorem State.serveWrite_refused (h : ¬ r.inWindow = true) : s.serveWrite r = s.answer r.pair .refused :=
  if_pos (by simpa using h)

section
variable (hin : r.inWindow = true)
include hin

theorem State.serveWrite_badRequest (hcommand : r.spansCommand = true) : s.serveWrite r = s.answer r.pair .badRequest := by
  rw [State.serveWrite, if_neg (by simp [hin]), if_pos hcommand]

theorem State.serveWrite_locked (hcommand : ¬ r.spansCommand = true) (hlock : s.da.lock = true)
    (htable : r.spansTable = true) : s.serveWrite r = s.answer r.pair .locked := by
  rw [State.serveWrite, if_neg (by simp [hin]), if_neg hcommand, if_pos (by simp [hlock, htable])]

theorem State.serveWrite_written (hcommand : ¬ r.spansCommand = true)
    (hopen : ¬ (s.da.lock = true ∧ r.spansTable = true)) : s.serveWrite r
      = (s.access r).1.answer r.pair (s.access r).2 := by
  rw [State.serveWrite, if_neg (by simp [hin]), if_neg hcommand, if_neg (by simpa using hopen)]

end

/-- A WRITE or MODIFY that carries no command is served by a row (log 11). -/
theorem State.exists_rowServes (hop : r.opcode ≠ .read) (hcode : r.commandCode = none) :
    ∃ c, s.rowServes r c = true := by
  by_cases hstaging : r.isStagingWrite = true
  · exact ⟨.stagingWrite, hstaging⟩
  by_cases hconfig : r.isPortConfigWrite = true
  · exact ⟨.portConfigurationWrite, hconfig⟩
  by_cases hoverflow : r.isOverflowClear = true
  · exact ⟨.eventOverflowClear, hoverflow⟩
  by_cases henable : s.writesEnable r true = true
  · exact ⟨.portEnable, henable⟩
  by_cases hdisable : s.writesEnable r false = true
  · exact ⟨.portDisable, hdisable⟩
  exact ⟨.managementWrite, by
    simp [State.rowServes, State.isPlainWrite, Request.isAccess, hop, hcode, hstaging, hconfig, hoverflow, henable, hdisable]⟩

end

/-- Settles O41: whichever row serves the write, it goes through the checks of R151 in order. -/
theorem managementWriteChecksThenWrites : Obligations.ManagementWriteChecksThenWrites := by
  intro s r rest hidle hqueue hop hcode hlen off inside covers table popped
  have hin : r.inWindow = true ↔ inside := Request.inWindow_iff
  have hcommand : r.spansCommand = true ↔ covers (fun o => o = 0x41) := Request.spansCommand_iff
  have htable : r.spansTable = true ↔ covers table := Request.spansTable_iff_range
  refine ⟨State.exists_rowServes hop hcode, fun c hc => ?_⟩
  have hexec := exec_of_rowServes hidle hqueue hcode hc
  rw [State.popMu_cons hqueue] at hexec
  refine ⟨_, hexec, fun hout => ?_, fun hinside hcovers => ?_, fun hinside hgood hlock hcovers => ?_,
    fun hinside hgood hopen => ?_⟩
  · exact State.closes_settle (State.serveWrite_refused (mt hin.1 hout))
  · exact State.closes_settle (State.serveWrite_badRequest (hin.2 hinside) (hcommand.2 hcovers))
  · exact State.closes_settle (State.serveWrite_locked (s := popped) (hin.2 hinside) (mt hcommand.1 hgood) hlock
      (htable.2 hcovers))
  · refine State.closes_settle (State.serveWrite_written (s := popped) (hin.2 hinside) (mt hcommand.1 hgood)
      fun ⟨hlock, hcovers⟩ => ?_)
    rcases hopen with hunlocked | hnone
    · have hlock' : s.da.lock = true := hlock
      rw [hunlocked] at hlock'
      cases hlock'
    · exact hnone (htable.1 hcovers)

/-! ### The words of an access (R77, R86, R121, R153, R154) -/

/-- The state and the status after the first `k` words of an access. -/
def State.wordsWritten (s : State) (r : Request) (k : Nat) : State × Status :=
  (List.range k).foldl (State.accessWord r) (s, .ok)

theorem State.wordsWritten_succ (s : State) (r : Request) (k : Nat) :
    s.wordsWritten r (k + 1) = State.accessWord r (s.wordsWritten r k) k := by
  rw [State.wordsWritten, List.range_succ, List.foldl_append]
  rfl

/-- The value a word of an access is written with (R121, R153). -/
theorem Request.accessValue_eq {r : Request} (hop : r.opcode ≠ .read) (i : Nat) (old : Word) :
    (if r.offset + i = overflowOffset then r.writtenMasked i else r.written i old)
      = if r.opcode = .write then r.payload.getD i 0#32
        else if r.offset + i = 0x0A then r.payload.getD (r.length.toNat + i) 0#32 &&& r.payload.getD i 0#32
        else (old &&& ~~~ (r.payload.getD i 0#32)) ||| (r.payload.getD (r.length.toNat + i) 0#32 &&& r.payload.getD i 0#32) := by
  cases hop' : r.opcode with
  | read => exact absurd hop' hop
  | write => simp [Request.writtenMasked, Request.written, Request.valueWord, hop']
  | modify =>
    simp only [Request.writtenMasked, Request.written, Request.valueWord, Request.maskWord, hop', reduceCtorEq, if_false,
      overflowOffset]

theorem limitRaised_iff {s t : State} :
    limitRaised s t = true ↔ ∃ p : PortNo, (s.port p).limit.toNat < (t.port p).limit.toNat := by
  simp [limitRaised]

/-- Settles O42, with the words written so far. -/
theorem accessWritesSpanInOrder : Obligations.AccessWritesSpanInOrder := by
  intro s r hop haddr
  refine ⟨s.wordsWritten r, rfl, ?_, rfl, fun hraised => if_pos (limitRaised_iff.2 hraised),
    fun hkept => if_neg fun hraised => ?_⟩
  · intro i hi o old mask value v
    have hv : (if r.offset + i = overflowOffset then r.writtenMasked i else r.written i old) = v :=
      Request.accessValue_eq hop i old
    rw [State.wordsWritten_succ, ← hv]
    rfl
  · obtain ⟨p, hp⟩ := limitRaised_iff.1 hraised
    exact absurd (hkept p) (Nat.not_le.2 hp)

end Sys2Proof.Machine
end

section
/-! PROOF. The management map: what each word reads and what a write of it does (R49, R52, R94, R96, R97, R116, R130, R135,
R152 to R154, R167, R171, R173, 11.1, 11.4). -/
namespace Sys2Proof.Machine

/-! ### Fields of a word -/

theorem setWidth_toNat {k : Nat} (v : BitVec k) (hk : k ≤ 32) : (v.setWidth 32).toNat = v.toNat := by
  have hpow : 2 ^ k ≤ 2 ^ 32 := Nat.pow_le_pow_right (by decide) hk
  have hv := v.isLt
  rw [BitVec.toNat_setWidth, Nat.mod_eq_of_lt (by omega)]

theorem fieldAt_zero_toNat {k : Nat} (v : BitVec k) (hk : k ≤ 32) : (fieldAt v 0).toNat = v.toNat := by
  rw [fieldAt_zero, setWidth_toNat v hk]

theorem flagAt_zero_toNat (b : Bool) : (flagAt b 0).toNat = b.toNat := by
  rw [flagAt_toNat b 0 (by decide), Nat.pow_zero, Nat.mul_one]

theorem or_flagAt_toNat (w : Word) (b : Bool) (lo : Nat) (h : lo < 32) (hw : w.toNat < 2 ^ lo) :
    (w ||| flagAt b lo).toNat = w.toNat + b.toNat * 2 ^ lo := by
  rw [flagAt, or_fieldAt_toNat w _ lo (by omega) hw, BitVec.toNat_ofBool]

theorem or_countAt_toNat (w : Word) (k n lo : Nat) (h : k + lo ≤ 32) (hw : w.toNat < 2 ^ lo) :
    (w ||| countAt k n lo).toNat = w.toNat + n % 2 ^ k * 2 ^ lo := by
  rw [countAt, or_fieldAt_toNat w _ lo h hw, BitVec.toNat_ofNat]

/-! ### The regions of the map, read -/

section
variable (s : State)

theorem State.readWord_identity {o : Nat} (h : o < 0x40) : s.readWord o = s.readIdentity o := if_pos h

theorem State.readWord_command {o : Nat} (hlow : 0x40 ≤ o) (hhigh : o < 0x48) : s.readWord o = s.readCommand o := by
  rw [State.readWord, if_neg (by omega), if_pos hhigh]

theorem State.readWord_port (p : PortNo) {k : Nat} (hk : k < 16) : s.readWord (0x100 + 16 * p.val + k) = s.readPort p k := by
  have hp := p.isLt
  have hport : Fin.ofNat 4 ((0x100 + 16 * p.val + k - 0x100) / 16) = p := Fin.ext (by rw [Fin.val_ofNat]; omega)
  have hword : (0x100 + 16 * p.val + k) % 16 = k := by omega
  rw [State.readWord, if_neg (by omega), if_neg (by omega), if_pos (by simp; omega), hport, hword]

theorem State.readWord_cell (c : CellNo) {k : Nat} (hk : k < 8) :
    s.readWord (0x200 + 8 * c.val + k) = (s.da.cells.get c).word k := by
  have hc := c.isLt
  have hcell : Fin.ofNat 8 ((0x200 + 8 * c.val + k - 0x200) / 8) = c := Fin.ext (by rw [Fin.val_ofNat]; omega)
  have hword : (0x200 + 8 * c.val + k) % 8 = k := by omega
  rw [State.readWord, if_neg (by omega), if_neg (by omega), if_neg (by simp; omega), if_pos (by simp; omega), hcell, hword]

theorem State.readWord_counter {o : Nat} (hlow : 0x400 ≤ o) (hhigh : o < 0x500) : s.readWord o = s.readCounter o := by
  rw [State.readWord, if_neg (by omega), if_neg (by omega), if_neg (by simp; omega), if_neg (by simp; omega),
    if_pos (by simp; omega)]

theorem State.readWord_entry (n : EntryNo) {k : Nat} (hk : k < 4) :
    s.readWord (0x800 + 4 * n.val + k) = (s.entry n).word k := by
  have hn := n.isLt
  have hentry : Fin.ofNat 32 ((0x800 + 4 * n.val + k - 0x800) / 4) = n := Fin.ext (by rw [Fin.val_ofNat]; omega)
  have hword : (0x800 + 4 * n.val + k) % 4 = k := by omega
  rw [State.readWord, if_neg (by omega), if_neg (by omega), if_neg (by simp; omega), if_neg (by simp; omega),
    if_neg (by simp; omega), if_pos (by simp; omega), hentry, hword]

theorem isStagingWord_iff {o : Nat} : isStagingWord o = true ↔ 0x1000 ≤ o ∧ o ≤ 0x1241 := by
  simp [isStagingWord]

/-- From 1000h on a word is one of staging, one of the active readback, or unmapped. -/
theorem State.readWord_high {o : Nat} (h : 0x880 ≤ o) : s.readWord o =
    if isStagingWord o then s.da.staging.word (o - 0x1000)
    else if isTableWord o then s.da.active.word (o - 0x2000) else 0#32 := by
  rw [State.readWord, if_neg (by omega), if_neg (by omega), if_neg (by simp; omega), if_neg (by simp; omega),
    if_neg (by simp; omega), if_neg (by simp; omega)]

theorem State.readWord_staging {o : Nat} (h : o < 0x242) : s.readWord (0x1000 + o) = s.da.staging.word o := by
  rw [State.readWord_high s (by omega), if_pos (isStagingWord_iff.2 (by omega)), Nat.add_sub_cancel_left]

theorem State.readWord_active {o : Nat} (h : o < 0x242) : s.readWord (0x2000 + o) = s.da.active.word o := by
  rw [State.readWord_high s (by omega), if_neg (by rw [isStagingWord_iff]; omega), if_pos (isTableWord_iff.2 (by omega)),
    Nat.add_sub_cancel_left]

/-! The words where nothing is mapped. -/

theorem State.readIdentity_unmapped {o : Nat} (h : 0x0B ≤ o) : s.readIdentity o = 0#32 := by
  unfold State.readIdentity
  split
  iterate 11 omega
  rfl

theorem State.readCommand_unmapped {o : Nat} (h : 0x44 ≤ o) : s.readCommand o = 0#32 := by
  unfold State.readCommand
  split
  iterate 3 omega
  rfl

theorem State.readPort_unmapped (p : PortNo) {k : Nat} (h : 14 ≤ k) : s.readPort p k = 0#32 := by
  unfold State.readPort
  dsimp only
  split
  iterate 14 omega
  rfl

theorem State.readCounter_unmapped {o : Nat} (h : (0x40A ≤ o ∧ o < 0x410) ∨ (0x414 ≤ o ∧ o < 0x418)
      ∨ (0x41A ≤ o ∧ o < 0x440) ∨ 0x480 ≤ o) : s.readCounter o = 0#32 := by
  rw [State.readCounter, if_neg (by omega), if_neg (by omega), if_neg (by omega), if_neg (by omega), if_neg (by omega),
    if_neg (by omega), if_neg (by omega), if_neg (by simp; omega)]

theorem State.readWord_unmapped {o : Nat} (h : (0x0B ≤ o ∧ o < 0x40) ∨ (0x44 ≤ o ∧ o < 0x100) ∨ (0x140 ≤ o ∧ o < 0x200)
      ∨ (0x240 ≤ o ∧ o < 0x400) ∨ (0x40A ≤ o ∧ o < 0x410) ∨ (0x414 ≤ o ∧ o < 0x418) ∨ (0x41A ≤ o ∧ o < 0x440)
      ∨ (0x480 ≤ o ∧ o < 0x800) ∨ (0x880 ≤ o ∧ o < 0x1000) ∨ (0x1242 ≤ o ∧ o < 0x2000) ∨ 0x2242 ≤ o
      ∨ (0x100 ≤ o ∧ o < 0x140 ∧ 14 ≤ o % 16)) : s.readWord o = 0#32 := by
  by_cases hidentity : o < 0x40
  · rw [s.readWord_identity hidentity, s.readIdentity_unmapped (by omega)]
  by_cases hcommand : o < 0x48
  · rw [s.readWord_command (by omega) hcommand, s.readCommand_unmapped (by omega)]
  by_cases hport : 0x100 ≤ o ∧ o < 0x140
  · rw [State.readWord, if_neg hidentity, if_neg hcommand, if_pos (by simpa using hport), s.readPort_unmapped _ (by omega)]
  by_cases hcounter : 0x400 ≤ o ∧ o < 0x500
  · rw [s.readWord_counter hcounter.1 hcounter.2, s.readCounter_unmapped (by omega)]
  by_cases hhigh : 0x880 ≤ o
  · rw [s.readWord_high hhigh, if_neg (by rw [isStagingWord_iff]; omega), if_neg (by rw [isTableWord_iff]; omega)]
  · rw [State.readWord, if_neg hidentity, if_neg hcommand, if_neg (by simp; omega), if_neg (by simp; omega),
      if_neg (by simp; omega), if_neg (by simp; omega), if_neg (by rw [isStagingWord_iff]; omega),
      if_neg (by rw [isTableWord_iff]; omega)]

end

end Sys2Proof.Machine
end

section
/-! PROOF. The words of the management map, field by field, and its writes (R49, R52, R94, R96, R97, R116, R130, R135, R152
to R154, R167, R171, R173, 11.1, 11.4). -/
namespace Sys2Proof.Machine

/-! ### Words of several fields -/

theorem recoveryWord_toNat (src : BitVec 4) (en : Bool) :
    (fieldAt src 0 ||| flagAt en 8).toNat = src.toNat + 256 * en.toNat := by
  have hsrc := fieldAt_zero_toNat src (by decide)
  have hlt := src.isLt
  rw [or_flagAt_toNat _ _ 8 (by decide) (by omega), hsrc]
  omega

theorem or_byte_toNat {k l : Nat} (low : BitVec k) (high : BitVec l) (hk : k ≤ 8) (hl : l ≤ 24) :
    (fieldAt low 0 ||| fieldAt high 8).toNat = low.toNat + 256 * high.toNat := by
  have hlow := fieldAt_zero_toNat low (by omega)
  have hlt := low.isLt
  have hpow : 2 ^ k ≤ 2 ^ 8 := Nat.pow_le_pow_right (by decide) hk
  rw [or_fieldAt_toNat _ _ 8 (by omega) (by omega), hlow]
  omega

theorem portStateWord_toNat (state : BitVec 3) (reason : BitVec 2) :
    (fieldAt state 0 ||| fieldAt reason 4).toNat = state.toNat + 16 * reason.toNat := by
  have hstate := fieldAt_zero_toNat state (by decide)
  have hlt := state.isLt
  rw [or_fieldAt_toNat _ _ 4 (by decide) (by omega), hstate]
  omega

theorem portCountsWord_toNat (count held slot : Nat) :
    (countAt 5 count 0 ||| countAt 3 held 8 ||| countAt 5 slot 16).toNat
      = count % 32 + 256 * (held % 8) + 65536 * (slot % 32) := by
  have hcount : (countAt 5 count 0).toNat = count % 32 := by
    rw [countAt_toNat _ _ _ (by decide), Nat.pow_zero, Nat.mul_one]
    rfl
  have hheld : (countAt 5 count 0 ||| countAt 3 held 8).toNat = count % 32 + 256 * (held % 8) := by
    rw [or_countAt_toNat _ _ _ _ (by decide) (by omega), hcount]
    omega
  rw [or_countAt_toNat _ _ _ _ (by decide) (by omega), hheld]
  omega

theorem creditWord_toNat (credit : BitVec 8) (buffered : Bool) :
    (fieldAt credit 0 ||| flagAt buffered 8).toNat = credit.toNat + 256 * buffered.toNat := by
  have hcredit := fieldAt_zero_toNat credit (by decide)
  have hlt := credit.isLt
  rw [or_flagAt_toNat _ _ 8 (by decide) (by omega), hcredit]
  omega

theorem loadsWord_toNat (full : Bool) (loads : BitVec 16) :
    (flagAt full 0 ||| fieldAt loads 16).toNat = full.toNat + 65536 * loads.toNat := by
  have hfull := flagAt_zero_toNat full
  have hlt := full.toNat_lt
  rw [or_fieldAt_toNat _ _ 16 (by decide) (by omega), hfull]
  omega

theorem recordWord_toNat (src : BitVec 4) (tag : BitVec 6) (opcode : BitVec 2) (length : BitVec 7) (term : BitVec 6) :
    (fieldAt src 0 ||| fieldAt tag 4 ||| fieldAt opcode 10 ||| fieldAt length 12 ||| fieldAt term 20).toNat
      = src.toNat + 16 * tag.toNat + 1024 * opcode.toNat + 4096 * length.toNat + 1048576 * term.toNat := by
  have h1 := src.isLt
  have h2 := tag.isLt
  have h3 := opcode.isLt
  have h4 := length.isLt
  have hsrc := fieldAt_zero_toNat src (by decide)
  have htag : (fieldAt src 0 ||| fieldAt tag 4).toNat = src.toNat + 16 * tag.toNat := by
    rw [or_fieldAt_toNat _ _ 4 (by decide) (by omega), hsrc]
    omega
  have hopcode : (fieldAt src 0 ||| fieldAt tag 4 ||| fieldAt opcode 10).toNat
      = src.toNat + 16 * tag.toNat + 1024 * opcode.toNat := by
    rw [or_fieldAt_toNat _ _ 10 (by decide) (by omega), htag]
    omega
  have hlength : (fieldAt src 0 ||| fieldAt tag 4 ||| fieldAt opcode 10 ||| fieldAt length 12).toNat
      = src.toNat + 16 * tag.toNat + 1024 * opcode.toNat + 4096 * length.toNat := by
    rw [or_fieldAt_toNat _ _ 12 (by decide) (by omega), hopcode]
    omega
  rw [or_fieldAt_toNat _ _ 20 (by decide) (by omega), hlength]
  omega

theorem entryWord_toNat (state : BitVec 2) (p : PortNo) (opcode : BitVec 2) (src : BitVec 4) (tag : BitVec 6) :
    (fieldAt state 0 ||| countAt 2 p.val 4 ||| fieldAt opcode 8 ||| fieldAt src 16 ||| fieldAt tag 24).toNat
      = state.toNat + 16 * p.val + 256 * opcode.toNat + 65536 * src.toNat + 16777216 * tag.toNat := by
  have h1 := state.isLt
  have h2 := p.isLt
  have h3 := opcode.isLt
  have h4 := src.isLt
  have hstate := fieldAt_zero_toNat state (by decide)
  have hport : (fieldAt state 0 ||| countAt 2 p.val 4).toNat = state.toNat + 16 * p.val := by
    rw [or_countAt_toNat _ _ _ 4 (by decide) (by omega), hstate]
    omega
  have hopcode : (fieldAt state 0 ||| countAt 2 p.val 4 ||| fieldAt opcode 8).toNat
      = state.toNat + 16 * p.val + 256 * opcode.toNat := by
    rw [or_fieldAt_toNat _ _ 8 (by decide) (by omega), hport]
    omega
  have hsrc : (fieldAt state 0 ||| countAt 2 p.val 4 ||| fieldAt opcode 8 ||| fieldAt src 16).toNat
      = state.toNat + 16 * p.val + 256 * opcode.toNat + 65536 * src.toNat := by
    rw [or_fieldAt_toNat _ _ 16 (by decide) (by omega), hopcode]
    omega
  rw [or_fieldAt_toNat _ _ 24 (by decide) (by omega), hsrc]
  omega

/-! ### What the words of each region read -/

section
variable (s : State)

theorem State.identityWords : ([0x00, 0x01, 0x02, 0x03, 0x04, 0x05, 0x06, 0x07, 0x08, 0x09, 0x0A] : List Nat).map
      (fun o => (s.readWord o).toNat)
    = [0x464, 1, s.up.segId.toNat, s.da.rcvSrc.toNat + 256 * s.da.rcvEn.toNat, s.da.retain.toNat, s.da.lock.toNat,
       s.da.generation.toNat, s.da.active.label.toNat, s.tb.divider.toNat, s.ev.mask.toNat, s.ev.overflow.toNat] := by
  have hread : ∀ o ∈ ([0x00, 0x01, 0x02, 0x03, 0x04, 0x05, 0x06, 0x07, 0x08, 0x09, 0x0A] : List Nat),
      (s.readWord o).toNat = (s.readIdentity o).toNat := fun o ho => by
    have hlt : ∀ o ∈ ([0x00, 0x01, 0x02, 0x03, 0x04, 0x05, 0x06, 0x07, 0x08, 0x09, 0x0A] : List Nat), o < 0x40 := by decide
    rw [s.readWord_identity (hlt o ho)]
  rw [List.map_congr_left hread]
  simp only [List.map_cons, List.map_nil, State.readIdentity, recoveryWord_toNat, fieldAt_zero_toNat, flagAt_zero_toNat,
    Nat.reduceLeDiff]
  rfl

theorem State.commandWords : ([0x40, 0x41, 0x42, 0x43] : List Nat).map (fun o => (s.readWord o).toNat)
    = [s.mu.arg.toNat, 0, s.mu.last.command.toNat + 256 * s.mu.last.status.code.toNat, s.mu.last.detail.toNat] := by
  have hread : ∀ o ∈ ([0x40, 0x41, 0x42, 0x43] : List Nat), (s.readWord o).toNat = (s.readCommand o).toNat := fun o ho => by
    have hlt : ∀ o ∈ ([0x40, 0x41, 0x42, 0x43] : List Nat), 0x40 ≤ o ∧ o < 0x48 := by decide
    rw [s.readWord_command (hlt o ho).1 (hlt o ho).2]
  rw [List.map_congr_left hread]
  simp only [List.map_cons, List.map_nil, State.readCommand, or_byte_toNat _ _ (Nat.le_refl 8) (by decide : 8 ≤ 24)]
  rfl

theorem Port.enableWord_toNat (q : Port) : q.enableWord.toNat = if q.state = .disabled then 0 else 1 := by
  unfold Port.enableWord
  split <;> rfl

theorem State.portConfigWords (p : PortNo) : (List.range 7).map (fun i => (s.readWord (0x100 + 16 * p.val + i)).toNat)
    = [if (s.port p).state = .disabled then 0 else 1, (s.port p).limit.toNat, (s.port p).respTimeout.toNat,
       (s.port p).idleInterval.toNat, (s.port p).wakeTimeout.toNat, (s.port p).linkTimeout.toNat,
       (s.port p).notify.toNat] := by
  have hread : ∀ i ∈ List.range 7, (s.readWord (0x100 + 16 * p.val + i)).toNat = (s.readPort p i).toNat := fun i hi => by
    have hlt := List.mem_range.1 hi
    rw [s.readWord_port p (by omega)]
  rw [List.map_congr_left hread, show List.range 7 = [0, 1, 2, 3, 4, 5, 6] from rfl]
  simp only [List.map_cons, List.map_nil, State.readPort, Port.enableWord_toNat, fieldAt_zero_toNat, flagAt_zero_toNat,
    Nat.reduceLeDiff]

theorem State.portStatusWords (p : PortNo) : (List.range 7).map (fun i => (s.readWord (0x100 + 16 * p.val + 7 + i)).toNat)
    = [(s.port p).state.code.toNat + 16 * (s.port p).reason.code.toNat,
       s.tt.count p % 32 + 256 * ((s.hold p).length % 8) + 65536 * ((s.port p).slot.length % 32),
       (s.port p).credit.code.toNat + 256 * (s.port p).ntfBuf.isSome.toNat,
       (s.port p).bad.toNat, (s.port p).stray.toNat, (s.port p).late.toNat, (s.port p).discarded.toNat] := by
  have hread : ∀ i ∈ List.range 7, (s.readWord (0x100 + 16 * p.val + 7 + i)).toNat = (s.readPort p (7 + i)).toNat :=
    fun i hi => by
      have hlt := List.mem_range.1 hi
      rw [Nat.add_assoc _ 7 i, s.readWord_port p (by omega)]
  rw [List.map_congr_left hread, show List.range 7 = [0, 1, 2, 3, 4, 5, 6] from rfl]
  simp only [List.map_cons, List.map_nil, Nat.reduceAdd, State.readPort, portStateWord_toNat, portCountsWord_toNat,
    creditWord_toNat]

theorem State.cellWords (c : CellNo) (x : Cell) (hx : s.da.cells.get c = x) :
    (List.range 8).map (fun i => (s.readWord (0x200 + 8 * c.val + i)).toNat)
    = [if x.mode = .track then 1 else 0, x.hold.toNat, x.full.toNat + 65536 * x.loads.toNat,
       x.record.pair.src.toNat + 16 * x.record.pair.tag.toNat + 1024 * x.record.opcode.code.toNat
         + 4096 * x.record.length.toNat + 1048576 * x.record.term.toNat,
       x.record.addr.toNat, x.record.outcome.code.toNat, x.record.stamp.toNat, x.record.generation.toNat] := by
  have hread : ∀ i ∈ List.range 8, (s.readWord (0x200 + 8 * c.val + i)).toNat = (x.word i).toNat := fun i hi => by
    rw [s.readWord_cell c (List.mem_range.1 hi), hx]
  have hmode : (decide (x.mode = .track)).toNat = if x.mode = .track then 1 else 0 := by split <;> simp [*]
  rw [List.map_congr_left hread, show List.range 8 = [0, 1, 2, 3, 4, 5, 6, 7] from rfl]
  simp only [List.map_cons, List.map_nil, Cell.word, flagAt_zero_toNat, hmode, loadsWord_toNat, recordWord_toNat,
    fieldAt_zero_toNat, Nat.reduceLeDiff]

theorem State.entryWords (n : EntryNo) (e : Entry) (he : s.entry n = e) :
    (List.range 4).map (fun i => (s.readWord (0x800 + 4 * n.val + i)).toNat)
    = [e.state.code.toNat + 16 * e.port.val + 256 * e.opcode.code.toNat + 65536 * e.pair.src.toNat
         + 16777216 * e.pair.tag.toNat,
       e.timer % 1048576, e.stamp.toNat, e.addr.toNat] := by
  have hread : ∀ i ∈ List.range 4, (s.readWord (0x800 + 4 * n.val + i)).toNat = (e.word i).toNat := fun i hi => by
    rw [s.readWord_entry n (List.mem_range.1 hi), he]
  have htimer : (countAt 20 e.timer 0).toNat = e.timer % 1048576 := by
    rw [countAt_toNat _ _ _ (by decide), Nat.pow_zero, Nat.mul_one]
    rfl
  rw [List.map_congr_left hread, show List.range 4 = [0, 1, 2, 3] from rfl]
  simp only [List.map_cons, List.map_nil, Entry.word, entryWord_toNat, htimer]

/-! The counter region. -/

theorem State.readWord_decision (k : Fin 10) : s.readWord (0x400 + k.val) = s.ev.decisions.get k := by
  have hk := k.isLt
  have hindex : Fin.ofNat 10 (0x400 + k.val - 0x400) = k := Fin.ext (by rw [Fin.val_ofNat]; omega)
  rw [s.readWord_counter (by omega) (by omega), State.readCounter, if_pos (by omega), hindex]

theorem State.readWord_hits (n : TermNo) : s.readWord (0x440 + n.val) = s.da.hits.get n := by
  have hn := n.isLt
  have hindex : Fin.ofNat 64 (0x440 + n.val - 0x440) = n := Fin.ext (by rw [Fin.val_ofNat]; omega)
  rw [s.readWord_counter (by omega) (by omega), State.readCounter, if_neg (by omega), if_neg (by omega), if_neg (by omega),
    if_neg (by omega), if_neg (by omega), if_neg (by omega), if_neg (by omega), if_pos (by simp; omega), hindex]

theorem State.upstreamWords : ([0x410, 0x411, 0x412, 0x413] : List Nat).map s.readWord
    = [s.ev.upBad, s.ev.upBadRequest, s.ev.upTagInUse, s.ev.upLinkLoss] := by
  have hread : ∀ o ∈ ([0x410, 0x411, 0x412, 0x413] : List Nat), s.readWord o = s.readCounter o := fun o ho => by
    have hlt : ∀ o ∈ ([0x410, 0x411, 0x412, 0x413] : List Nat), 0x400 ≤ o ∧ o < 0x500 := by decide
    exact s.readWord_counter (hlt o ho).1 (hlt o ho).2
  rw [List.map_congr_left hread]
  rfl

theorem countAt_six_toNat (n : Nat) : (countAt 6 n 0).toNat = n % 64 := by
  rw [countAt_toNat _ _ _ (by decide), Nat.pow_zero, Nat.mul_one]
  rfl

theorem State.egressWord : (s.readWord 0x418).toNat = s.up.egress.length % 64 := by
  rw [s.readWord_counter (by decide) (by decide)]
  exact countAt_six_toNat _

theorem State.reservationsWord : (s.readWord 0x419).toNat = s.up.reservations % 64 := by
  rw [s.readWord_counter (by decide) (by decide)]
  exact countAt_six_toNat _

end

end Sys2Proof.Machine
end

section
/-! PROOF. What a write of each word of the management map does (R49, R96, R97, R116, R152 to R154, R167, R171, R173,
11.4), and the codes the map shows (11.1). -/
namespace Sys2Proof.Machine

/-! ### Values in range -/

theorem extractLsb'_low_toNat (v : Word) (k : Nat) : (v.extractLsb' 0 k).toNat = v.toNat % 2 ^ k := by
  rw [BitVec.extractLsb'_toNat, Nat.shiftRight_zero]

theorem extractLsb'_low_eq_zero {v : Word} {k : Nat} : v.extractLsb' 0 k = 0#k ↔ v.toNat % 2 ^ k = 0 := by
  rw [← extractLsb'_low_toNat, ← BitVec.toNat_inj, BitVec.toNat_zero]

/-- An item that takes every value but 0 (R154). -/
theorem inRange_ne_zero {α : Type} (v : Word) (k : Nat) (new old : α) :
    inRange (v.extractLsb' 0 k ≠ 0#k) new old = if v.toNat % 2 ^ k = 0 then old else new := by
  unfold inRange
  by_cases hzero : v.toNat % 2 ^ k = 0
  · rw [if_pos hzero, if_neg (by simpa using extractLsb'_low_eq_zero.2 hzero)]
  · rw [if_neg hzero, if_pos (by simpa using mt extractLsb'_low_eq_zero.1 hzero)]

theorem inRange_limit (v : Word) (old : BitVec 5) :
    inRange (1 ≤ (v.extractLsb' 0 5).toNat && (v.extractLsb' 0 5).toNat ≤ 16) (v.extractLsb' 0 5) old
      = if 1 ≤ v.toNat % 32 ∧ v.toNat % 32 ≤ 16 then v.extractLsb' 0 5 else old := by
  have hlow : (v.extractLsb' 0 5).toNat = v.toNat % 32 := extractLsb'_low_toNat v 5
  simp only [inRange, hlow, Bool.and_eq_true, decide_eq_true_eq]

theorem Timebase.writeDivider_eq (t : Timebase) (v : Word) : t.writeDivider v = if v.toNat % 256 = 0 then t else
    { t with divider := v.extractLsb' 0 8, tickLength := if t.progress = 0 then v.extractLsb' 0 8 else t.tickLength } :=
  inRange_ne_zero v 8 _ t

/-! ### The configuration items of a port -/

section
variable (q : Port) (v : Word)

theorem Port.writeConfig_limit : q.writeConfig 1 v
    = { q with limit := if 1 ≤ v.toNat % 32 ∧ v.toNat % 32 ≤ 16 then v.extractLsb' 0 5 else q.limit } :=
  congrArg (fun l => { q with limit := l }) (inRange_limit v q.limit)

theorem Port.writeConfig_respTimeout : q.writeConfig 2 v
    = { q with respTimeout := if v.toNat % 65536 = 0 then q.respTimeout else v.extractLsb' 0 16 } :=
  congrArg (fun t => { q with respTimeout := t }) (inRange_ne_zero v 16 _ q.respTimeout)

theorem Port.writeConfig_wakeTimeout : q.writeConfig 4 v
    = { q with wakeTimeout := if v.toNat % 256 = 0 then q.wakeTimeout else v.extractLsb' 0 8 } :=
  congrArg (fun t => { q with wakeTimeout := t }) (inRange_ne_zero v 8 _ q.wakeTimeout)

theorem Port.writeConfig_linkTimeout : q.writeConfig 5 v
    = { q with linkTimeout := if v.toNat % 256 = 0 then q.linkTimeout else v.extractLsb' 0 8 } :=
  congrArg (fun t => { q with linkTimeout := t }) (inRange_ne_zero v 8 _ q.linkTimeout)

theorem Port.writeConfig_readOnly {k : Nat} (h : 7 ≤ k) : q.writeConfig k v = q := by
  unfold Port.writeConfig
  split
  iterate 6 omega
  rfl

end

theorem Cell.writeConfig_readOnly (c : Cell) (v : Word) {k : Nat} (h : 2 ≤ k) : c.writeConfig k v = c := by
  unfold Cell.writeConfig
  split
  iterate 2 omega
  rfl

/-! ### The regions of the map, written -/

section
variable (s : State) (v : Word)

theorem State.writeWord_identity {o : Nat} (h : o < 0x40) : s.writeWord o v = (s.writeIdentity o v, .ok) := if_pos h

theorem State.writeWord_enable (p : PortNo) : s.writeWord (0x100 + 16 * p.val) v = s.writeEnable p v := by
  have hp := p.isLt
  have hport : Fin.ofNat 4 ((0x100 + 16 * p.val - 0x100) / 16) = p := Fin.ext (by rw [Fin.val_ofNat]; omega)
  rw [State.writeWord, if_neg (by omega), if_neg (by omega), if_pos (by simp; omega), hport, if_pos (by omega)]

theorem State.writeWord_config (p : PortNo) {k : Nat} (hpos : 0 < k) (hk : k < 16) :
    s.writeWord (0x100 + 16 * p.val + k) v = ({ s with dp := s.dp.set p ((s.port p).writeConfig k v) }, .ok) := by
  have hp := p.isLt
  have hport : Fin.ofNat 4 ((0x100 + 16 * p.val + k - 0x100) / 16) = p := Fin.ext (by rw [Fin.val_ofNat]; omega)
  have hword : (0x100 + 16 * p.val + k) % 16 = k := by omega
  rw [State.writeWord, if_neg (by omega), if_neg (by omega), if_pos (by simp; omega), hport, hword, if_neg (by omega)]
  rfl

theorem State.writeWord_cell (c : CellNo) {k : Nat} (hk : k < 8) :
    s.writeWord (0x200 + 8 * c.val + k) v
      = ({ s with da := { s.da with cells := s.da.cells.set c ((s.da.cells.get c).writeConfig k v) } }, .ok) := by
  have hc := c.isLt
  have hcell : Fin.ofNat 8 ((0x200 + 8 * c.val + k - 0x200) / 8) = c := Fin.ext (by rw [Fin.val_ofNat]; omega)
  have hword : (0x200 + 8 * c.val + k) % 8 = k := by omega
  rw [State.writeWord, if_neg (by omega), if_neg (by omega), if_neg (by simp; omega), if_pos (by simp; omega), hcell, hword]
  rfl

theorem State.writeWord_staging {o : Nat} (h : o < 0x242) : s.writeWord (0x1000 + o) v
    = ({ s with da := { s.da with staging := s.da.staging.setWord o v } }, .ok) := by
  rw [State.writeWord, if_neg (by omega), if_neg (by omega), if_neg (by simp; omega), if_neg (by simp; omega),
    if_pos (isStagingWord_iff.2 (by omega)), Nat.add_sub_cancel_left]
  rfl

theorem State.writeWord_divider : s.writeWord 0x08 v = ({ s with tb := s.tb.writeDivider v }, .ok) := rfl

theorem State.writeWord_overflow : s.writeWord 0x0A v
    = ({ s with ev := { s.ev with overflow := if v.getLsbD 0 then false else s.ev.overflow } }, .ok) := by
  have hflag : (s.ev.overflow && !(v.getLsbD 0)) = if v.getLsbD 0 then false else s.ev.overflow := by
    cases v.getLsbD 0 <;> simp
  rw [← hflag]
  rfl

/-! The words that ignore a write. -/

theorem State.writeIdentity_readOnly {o : Nat} (h : o ∉ ([0x02, 0x04, 0x08, 0x09, 0x0A] : List Nat)) :
    s.writeIdentity o v = s := by
  simp only [List.mem_cons, List.not_mem_nil, or_false, not_or] at h
  unfold State.writeIdentity
  split
  iterate 5 omega
  rfl

theorem State.writeWord_config_readOnly (p : PortNo) {k : Nat} (hlow : 7 ≤ k) (hk : k < 16) :
    s.writeWord (0x100 + 16 * p.val + k) v = (s, .ok) := by
  rw [s.writeWord_config v p (by omega) hk, (s.port p).writeConfig_readOnly v hlow, State.port, Table.set_get]

theorem State.writeWord_cell_readOnly (c : CellNo) {k : Nat} (hlow : 2 ≤ k) (hk : k < 8) :
    s.writeWord (0x200 + 8 * c.val + k) v = (s, .ok) := by
  rw [s.writeWord_cell v c hk, Cell.writeConfig_readOnly _ v hlow, Table.set_get]

theorem State.writeWord_readOnly {off : Nat} (hlist : off ∉ ([0x02, 0x04, 0x08, 0x09, 0x0A, 0x40, 0x41] : List Nat))
    (hport : ¬ (0x100 ≤ off ∧ off < 0x140 ∧ off % 16 ≤ 6)) (hcell : ¬ (0x200 ≤ off ∧ off < 0x240 ∧ off % 8 ≤ 1))
    (hstaging : ¬ (0x1000 ≤ off ∧ off ≤ 0x1241)) : s.writeWord off v = (s, .ok) := by
  simp only [List.mem_cons, List.not_mem_nil, or_false, not_or] at hlist
  by_cases hidentity : off < 0x40
  · rw [s.writeWord_identity v hidentity, s.writeIdentity_readOnly v (by simp; omega)]
  by_cases hports : 0x100 ≤ off ∧ off < 0x140
  · have hoff : off = 0x100 + 16 * ((off - 0x100) / 16) + off % 16 := by omega
    rw [hoff]
    exact s.writeWord_config_readOnly v ⟨(off - 0x100) / 16, by omega⟩ (by omega) (by omega)
  by_cases hcells : 0x200 ≤ off ∧ off < 0x240
  · have hoff : off = 0x200 + 8 * ((off - 0x200) / 8) + off % 8 := by omega
    rw [hoff]
    exact s.writeWord_cell_readOnly v ⟨(off - 0x200) / 8, by omega⟩ (by omega) (by omega)
  · rw [State.writeWord, if_neg hidentity, if_neg (by omega), if_neg (by simp; omega), if_neg (by simp; omega),
      if_neg (by rw [isStagingWord_iff]; omega)]

end

/-- Settles O43: each region of the map read field by field, and written word by word. -/
theorem managementMapReadsAndWrites : Obligations.ManagementMapReadsAndWrites := by
  unfold Obligations.ManagementMapReadsAndWrites
  refine ⟨?_, ?_, rfl, rfl, rfl, rfl, rfl⟩
  · intro s p c n h k
    exact ⟨s.identityWords, s.commandWords, s.portConfigWords p, s.portStatusWords p, s.cellWords c _ rfl,
      s.readWord_decision k, s.upstreamWords, s.egressWord, s.reservationsWord, s.readWord_hits h, s.entryWords n _ rfl,
      fun o ho => ⟨s.readWord_staging ho, s.readWord_active ho⟩, fun o ho => s.readWord_unmapped ho⟩
  · intro s v p c
    refine ⟨rfl, rfl, fun hzero => ?_, fun hne => ?_, rfl, s.writeWord_overflow v, rfl, s.writeWord_enable v p,
      fun q => ⟨?_, ?_, ?_, ?_, ?_, ?_⟩, s.writeWord_cell v c (k := 0) (by decide), s.writeWord_cell v c (k := 1) (by decide),
      fun off ⟨hlist, hport, hcell, hstaging⟩ => s.writeWord_readOnly v hlist hport hcell hstaging⟩
    · rw [s.writeWord_divider, Timebase.writeDivider_eq, if_pos hzero]
    · rw [s.writeWord_divider, Timebase.writeDivider_eq, if_neg hne]
    · rintro rfl
      rw [s.writeWord_config v p (by decide) (by decide), Port.writeConfig_limit]
    · rintro rfl
      rw [s.writeWord_config v p (by decide) (by decide), Port.writeConfig_respTimeout]
    · rintro rfl
      exact s.writeWord_config v p (by decide) (by decide)
    · rintro rfl
      rw [s.writeWord_config v p (by decide) (by decide), Port.writeConfig_wakeTimeout]
    · rintro rfl
      rw [s.writeWord_config v p (by decide) (by decide), Port.writeConfig_linkTimeout]
    · rintro rfl
      exact s.writeWord_config v p (by decide) (by decide)

end Sys2Proof.Machine
end

section
/-! PROOF. A word of an image reads back as written, in its fields, and stands alone (R55, R177, 11.3). -/
namespace Sys2Proof.Machine

/-! ### A field taken from a word and put back -/

theorem fieldAt_extractLsb' (v : Word) (lo k : Nat) :
    fieldAt (v.extractLsb' lo k) lo = v &&& fieldAt (BitVec.allOnes k) lo := by
  ext i hi
  simp only [fieldAt, BitVec.getElem_shiftLeft, BitVec.getElem_and, BitVec.getElem_setWidth, BitVec.getLsbD_extractLsb',
    BitVec.getLsbD_allOnes]
  by_cases hlo : i < lo
  · simp [hlo]
  · simp [hlo, Nat.add_sub_cancel' (Nat.le_of_not_lt hlo), Bool.and_comm, BitVec.getLsbD_eq_getElem hi]

theorem flagAt_getLsbD (v : Word) (i : Nat) : flagAt (v.getLsbD i) i = v &&& flagAt true i := by
  have hbit : BitVec.ofBool (v.getLsbD i) = v.extractLsb' i 1 := by
    ext j hj
    obtain rfl : j = 0 := by omega
    simp
  rw [flagAt, hbit, fieldAt_extractLsb']
  rfl

theorem decide_ite_inhibit (b : Bool) : decide ((if b then Polarity.inhibit else .assert) = .inhibit) = b := by
  cases b <;> rfl

/-! ### The words of a term, of a window and of the header -/

/-- The bits of word `k` of a term that hold a field (11.3). -/
def Term.fieldsOf (k : Nat) : Word :=
  if k = 0 then 0xC78F8707#32 else if k = 1 ∨ k = 2 ∨ k = 3 then 0xFFFFFFFF#32 else 0#32

/-- The bits of word `k` of a window that hold a field (11.3). -/
def Window.fieldsOf (k : Nat) : Word :=
  if k = 0 then 0xE000001F#32 else if k = 1 ∨ k = 2 then 0xFFFFFFFF#32 else 0#32

theorem Term.word_setWord_control (t : Term) (v : Word) : (t.setWord 0 v).word 0 = v &&& 0xC78F8707#32 := by
  simp only [Term.setWord, Term.word, decide_ite_inhibit, fieldAt_extractLsb', flagAt_getLsbD, ← BitVec.and_or_distrib_left]
  exact congrArg (v &&& ·) (by decide)

theorem Term.word_setWord_sources (t : Term) (v : Word) : (t.setWord 3 v).word 3 = v &&& 0xFFFFFFFF#32 := by
  simp only [Term.setWord, Term.word, fieldAt_extractLsb', ← BitVec.and_or_distrib_left]
  exact congrArg (v &&& ·) (by decide)

theorem Window.word_setWord_control (w : Window) (v : Word) : (w.setWord 0 v).word 0 = v &&& 0xE000001F#32 := by
  simp only [Window.setWord, Window.word, fieldAt_extractLsb', flagAt_getLsbD, ← BitVec.and_or_distrib_left]
  exact congrArg (v &&& ·) (by decide)

theorem and_whole (v : Word) : v &&& 0xFFFFFFFF#32 = v := BitVec.and_allOnes

theorem Term.word_setWord_self (t : Term) (v : Word) (k : Nat) : (t.setWord k v).word k = v &&& Term.fieldsOf k := by
  match k with
  | 0 => exact t.word_setWord_control v
  | 1 => exact (and_whole v).symm
  | 2 => exact (and_whole v).symm
  | 3 => exact t.word_setWord_sources v
  | n + 4 => exact BitVec.and_zero.symm

theorem Term.word_setWord_ne (t : Term) (v : Word) {k k' : Nat} (h : k' ≠ k) : (t.setWord k v).word k' = t.word k' := by
  unfold Term.setWord
  split
  all_goals
    unfold Term.word
    grind

theorem Window.word_setWord_self (w : Window) (v : Word) (k : Nat) :
    (w.setWord k v).word k = v &&& Window.fieldsOf k := by
  match k with
  | 0 => exact w.word_setWord_control v
  | 1 => exact (and_whole v).symm
  | 2 => exact (and_whole v).symm
  | n + 3 => exact BitVec.and_zero.symm

theorem Window.word_setWord_ne (w : Window) (v : Word) {k k' : Nat} (h : k' ≠ k) :
    (w.setWord k v).word k' = w.word k' := by
  unfold Window.setWord
  split
  all_goals
    unfold Window.word
    grind

theorem Term.word_setWord (t : Term) (v : Word) (k k' : Nat) :
    (t.setWord k v).word k' = if k' = k then v &&& Term.fieldsOf k else t.word k' := by
  split
  · next h => rw [h, t.word_setWord_self]
  · next h => exact t.word_setWord_ne v h

theorem Window.word_setWord (w : Window) (v : Word) (k k' : Nat) :
    (w.setWord k v).word k' = if k' = k then v &&& Window.fieldsOf k else w.word k' := by
  split
  · next h => rw [h, w.word_setWord_self]
  · next h => exact w.word_setWord_ne v h

/-! ### The words of an image -/

section
variable (im : Image) (v : Word)

theorem Image.word_term {o : Nat} (h : o < 0x200) : im.word o = (im.terms.get (Fin.ofNat 64 (o / 8))).word (o % 8) :=
  if_pos h

theorem Image.word_window {o : Nat} (hlow : 0x200 ≤ o) (hhigh : o < 0x240) :
    im.word o = (im.windows.get (Fin.ofNat 16 ((o - 0x200) / 4))).word ((o - 0x200) % 4) := by
  rw [Image.word, if_neg (by omega), if_pos hhigh]

theorem Image.setWord_term {o : Nat} (h : o < 0x200) : im.setWord o v
    = { im with terms := im.terms.modify (Fin.ofNat 64 (o / 8)) (fun t => t.setWord (o % 8) v) } := if_pos h

theorem Image.setWord_window {o : Nat} (hlow : 0x200 ≤ o) (hhigh : o < 0x240) : im.setWord o v
    = { im with windows :=
          im.windows.modify (Fin.ofNat 16 ((o - 0x200) / 4)) (fun w => w.setWord ((o - 0x200) % 4) v) } := by
  rw [Image.setWord, if_neg (by omega), if_pos hhigh]

theorem Image.word_setWord_term {o o' : Nat} (ho : o < 0x200) :
    (im.setWord o v).word o' = if o' = o then v &&& Term.fieldsOf (o % 8) else im.word o' := by
  rw [im.setWord_term v ho]
  by_cases ho' : o' < 0x200
  · have hsame : Fin.ofNat 64 (o / 8) = Fin.ofNat 64 (o' / 8) ↔ o / 8 = o' / 8 := by
      rw [Fin.ext_iff, Fin.val_ofNat, Fin.val_ofNat]
      omega
    rw [Image.word_term _ ho', im.word_term ho', Table.get_modify]
    by_cases hrow : o / 8 = o' / 8
    · rw [if_pos (hsame.2 hrow), Term.word_setWord]
      by_cases hword : o' = o
      · rw [if_pos hword, if_pos (by rw [hword])]
      · rw [if_neg hword, if_neg (by omega)]
    · rw [if_neg (mt hsame.1 hrow), if_neg fun heq => hrow (by rw [heq])]
  · rw [if_neg (by omega), Image.word, Image.word, if_neg ho', if_neg ho']

theorem Image.word_setWord_window {o o' : Nat} (hlow : 0x200 ≤ o) (hhigh : o < 0x240) :
    (im.setWord o v).word o' = if o' = o then v &&& Window.fieldsOf ((o - 0x200) % 4) else im.word o' := by
  rw [im.setWord_window v hlow hhigh]
  by_cases ho' : 0x200 ≤ o' ∧ o' < 0x240
  · obtain ⟨hlow', hhigh'⟩ := ho'
    have hsame : Fin.ofNat 16 ((o - 0x200) / 4) = Fin.ofNat 16 ((o' - 0x200) / 4)
        ↔ (o - 0x200) / 4 = (o' - 0x200) / 4 := by
      rw [Fin.ext_iff, Fin.val_ofNat, Fin.val_ofNat]
      omega
    rw [Image.word_window _ hlow' hhigh', im.word_window hlow' hhigh', Table.get_modify]
    by_cases hrow : (o - 0x200) / 4 = (o' - 0x200) / 4
    · rw [if_pos (hsame.2 hrow), Window.word_setWord]
      by_cases hword : o' = o
      · rw [if_pos hword, if_pos (by rw [hword])]
      · rw [if_neg hword, if_neg (by omega)]
    · rw [if_neg (mt hsame.1 hrow), if_neg fun heq => hrow (by rw [heq])]
  · rw [if_neg (by omega)]
    by_cases hterm : o' < 0x200
    · rw [Image.word_term _ hterm, im.word_term hterm]
    · have hheader : ¬ o' < 0x240 := by omega
      rw [Image.word, Image.word, if_neg hterm, if_neg hterm, if_neg hheader, if_neg hheader]

theorem Image.word_setWord_header {o o' : Nat} (ho : o = 0x240 ∨ o = 0x241) : (im.setWord o v).word o'
    = if o' = o then v &&& (if o = 0x240 then 0x00000007#32 else 0x0000FFFF#32) else im.word o' := by
  by_cases hword : o' = o
  · rw [if_pos hword, hword]
    rcases ho with rfl | rfl
    · exact fieldAt_extractLsb' v 0 3
    · exact fieldAt_extractLsb' v 0 16
  · rw [if_neg hword]
    rcases ho with rfl | rfl
    · rw [Image.word, Image.word, if_neg hword, if_neg hword]
      rfl
    · rw [Image.word, Image.word, if_neg hword, if_neg hword]
      rfl

end

/-- Settles O44: a written word lies in one row of one region, so the other rows stand; in its row the bits that hold no
field drop out. -/
theorem stagingWordsReadBackAsWritten : Obligations.StagingWordsReadBackAsWritten := by
  unfold Obligations.StagingWordsReadBackAsWritten
  refine ⟨fun s o v ho => s.writeWord_staging v ho, fun im o o' v ho _ => ?_⟩
  by_cases hterm : o < 0x200
  · dsimp only
    rw [if_pos hterm]
    exact im.word_setWord_term v hterm
  by_cases hwindow : o < 0x240
  · have hword : (o - 0x200) % 4 = o % 4 := by omega
    dsimp only
    rw [if_neg hterm, if_pos hwindow, ← hword]
    exact im.word_setWord_window v (by omega) hwindow
  · dsimp only
    rw [if_neg hterm, if_neg hwindow]
    exact im.word_setWord_header v (by omega)

end Sys2Proof.Machine
end
